-- ==== Sys2Proof/Word.lean ====
section
/-! DEFINITION. The bit-vector types of the machine, at the widths 00_scope.md R6 and R8 give. -/

namespace Sys2Proof

/-- A memory byte, a general register, a timer or an immediate `kk` (R6, R8). -/
abbrev Byte := BitVec 8

/-- An instruction word, the index register, the PC or a stack entry (R6). -/
abbrev Word := BitVec 16

/-- The 12-bit address field `nnn` (R8). -/
abbrev Addr := BitVec 12

/-- A 4-bit field: the class nibble `o` or the small immediate `n` (R8). -/
abbrev Nibble := BitVec 4

/-- A 4-bit register index `x` or `y` (R8, R21). -/
abbrev Reg := BitVec 4

/-- The number of `VF`, the flag register (R22). -/
abbrev Reg.vf : Reg := 0xF#4

/-- The number of `V0`, which `JP V0,addr` reads (R124). -/
abbrev Reg.v0 : Reg := 0x0#4

end Sys2Proof
end

