-- ==== Sys2Proof/Syntax.lean ====
section
/-! DEFINITION. The 35 instructions of 30_encoding.md R76, one constructor per row of the opcode map.
A field the instruction ignores (R77) is no argument of its constructor, except the `nnn` of SYS, which
the canonical encoding `0nnn` keeps. -/

namespace Sys2Proof

inductive Instr where
  /-- `CLS` (R170) -/
  | cls
  /-- `RET` (R121) -/
  | ret
  /-- `SYS addr` (R120) -/
  | sys (nnn : Addr)
  /-- `JP addr` (R122) -/
  | jp (nnn : Addr)
  /-- `CALL addr` (R123) -/
  | call (nnn : Addr)
  /-- `SE Vx,kk` (R130) -/
  | seImm (x : Reg) (kk : Byte)
  /-- `SNE Vx,kk` (R131) -/
  | sneImm (x : Reg) (kk : Byte)
  /-- `SE Vx,Vy` (R132) -/
  | seReg (x y : Reg)
  /-- `LD Vx,kk` (R140) -/
  | ldImm (x : Reg) (kk : Byte)
  /-- `ADD Vx,kk` (R141) -/
  | addImm (x : Reg) (kk : Byte)
  /-- `LD Vx,Vy` (R142) -/
  | ldReg (x y : Reg)
  /-- `OR Vx,Vy` (R143) -/
  | orReg (x y : Reg)
  /-- `AND Vx,Vy` (R144) -/
  | andReg (x y : Reg)
  /-- `XOR Vx,Vy` (R145) -/
  | xorReg (x y : Reg)
  /-- `ADD Vx,Vy` (R146) -/
  | addReg (x y : Reg)
  /-- `SUB Vx,Vy` (R147) -/
  | sub (x y : Reg)
  /-- `SHR Vx` (R148) -/
  | shr (x : Reg)
  /-- `SUBN Vx,Vy` (R149) -/
  | subn (x y : Reg)
  /-- `SHL Vx` (R150) -/
  | shl (x : Reg)
  /-- `SNE Vx,Vy` (R133) -/
  | sneReg (x y : Reg)
  /-- `LD I,addr` (R160) -/
  | ldI (nnn : Addr)
  /-- `JP V0,addr` (R124) -/
  | jpV0 (nnn : Addr)
  /-- `RND Vx,kk` (R151) -/
  | rnd (x : Reg) (kk : Byte)
  /-- `DRW Vx,Vy,n` (R171) -/
  | drw (x y : Reg) (n : Nibble)
  /-- `SKP Vx` (R134) -/
  | skp (x : Reg)
  /-- `SKNP Vx` (R135) -/
  | sknp (x : Reg)
  /-- `LD Vx,DT` (R180) -/
  | ldVxDT (x : Reg)
  /-- `LD Vx,K` (R181) -/
  | ldVxK (x : Reg)
  /-- `LD DT,Vx` (R182) -/
  | ldDTVx (x : Reg)
  /-- `LD ST,Vx` (R183) -/
  | ldSTVx (x : Reg)
  /-- `ADD I,Vx` (R161) -/
  | addI (x : Reg)
  /-- `LD F,Vx` (R162) -/
  | ldF (x : Reg)
  /-- `LD B,Vx` (R163) -/
  | ldB (x : Reg)
  /-- `LD [I],Vx`: store `V0 .. Vx` (R164) -/
  | ldStore (x : Reg)
  /-- `LD Vx,[I]`: load `V0 .. Vx` (R165) -/
  | ldLoad (x : Reg)
  deriving DecidableEq, Repr

end Sys2Proof
end

