-- ==== Sys2Proof/Decode.lean ====
section
/-! DEFINITION. The two-level decoder (30_encoding.md R73 to R78, R83) and, after it, the encoder (R84). -/

namespace Sys2Proof

/-! ### Fields of a word (00_scope.md R8) -/

/-- `o = w[15:12]` -/
def fieldO (w : Word) : Nibble := w.extractLsb' 12 4
/-- `x = w[11:8]` -/
def fieldX (w : Word) : Reg := w.extractLsb' 8 4
/-- `y = w[7:4]` -/
def fieldY (w : Word) : Reg := w.extractLsb' 4 4
/-- `n = w[3:0]` -/
def fieldN (w : Word) : Nibble := w.extractLsb' 0 4
/-- `kk = w[7:0]` -/
def fieldKK (w : Word) : Byte := w.extractLsb' 0 8
/-- `nnn = w[11:0]` -/
def fieldNNN (w : Word) : Addr := w.extractLsb' 0 12

/-! ### The decoder -/

/-- Why the decoder gives no instruction. -/
inductive Reject where
  /-- The word is illegal (R78): the hardware raises InvalidInstruction with it (R201). -/
  | invalidInstruction (w : Word)
  /-- Fewer than the two bytes of an instruction were given (R70); a fetch always gives two. -/
  | truncated
  deriving DecidableEq, Repr

/-- What the decoder answers: an instruction or a named rejection (R83). -/
inductive Decoded where
  | instr (i : Instr)
  | reject (r : Reject)
  deriving DecidableEq, Repr

/-- Second level of group 0: the low byte selects CLS or RET, and every other word is SYS (R74). -/
def decodeGroup0 (w : Word) : Instr :=
  if fieldKK w = 0xE0#8 then .cls
  else if fieldKK w = 0xEE#8 then .ret
  else .sys (fieldNNN w)

/-- Second level of group 8, keyed by the low nibble (R74, R76 rows 11 to 19). -/
def decodeGroup8 (w : Word) : Option Instr :=
  let x := fieldX w
  let y := fieldY w
  if fieldN w = 0x0#4 then some (.ldReg x y)
  else if fieldN w = 0x1#4 then some (.orReg x y)
  else if fieldN w = 0x2#4 then some (.andReg x y)
  else if fieldN w = 0x3#4 then some (.xorReg x y)
  else if fieldN w = 0x4#4 then some (.addReg x y)
  else if fieldN w = 0x5#4 then some (.sub x y)
  else if fieldN w = 0x6#4 then some (.shr x)
  else if fieldN w = 0x7#4 then some (.subn x y)
  else if fieldN w = 0xE#4 then some (.shl x)
  else none

/-- Second level of group E, keyed by the low byte (R74, R76 rows 25 and 26). -/
def decodeGroupE (w : Word) : Option Instr :=
  if fieldKK w = 0x9E#8 then some (.skp (fieldX w))
  else if fieldKK w = 0xA1#8 then some (.sknp (fieldX w))
  else none

/-- Second level of group F, keyed by the low byte (R74, R76 rows 27 to 35). -/
def decodeGroupF (w : Word) : Option Instr :=
  let x := fieldX w
  if fieldKK w = 0x07#8 then some (.ldVxDT x)
  else if fieldKK w = 0x0A#8 then some (.ldVxK x)
  else if fieldKK w = 0x15#8 then some (.ldDTVx x)
  else if fieldKK w = 0x18#8 then some (.ldSTVx x)
  else if fieldKK w = 0x1E#8 then some (.addI x)
  else if fieldKK w = 0x29#8 then some (.ldF x)
  else if fieldKK w = 0x33#8 then some (.ldB x)
  else if fieldKK w = 0x55#8 then some (.ldStore x)
  else if fieldKK w = 0x65#8 then some (.ldLoad x)
  else none

/-- First level: the class nibble selects one of 16 groups (R73, R76). `none` is an unrecognised
sub-opcode of group 8, E or F (R78). -/
def selectInstr (w : Word) : Option Instr :=
  let x := fieldX w
  let y := fieldY w
  let kk := fieldKK w
  let nnn := fieldNNN w
  if fieldO w = 0x0#4 then some (decodeGroup0 w)
  else if fieldO w = 0x1#4 then some (.jp nnn)
  else if fieldO w = 0x2#4 then some (.call nnn)
  else if fieldO w = 0x3#4 then some (.seImm x kk)
  else if fieldO w = 0x4#4 then some (.sneImm x kk)
  else if fieldO w = 0x5#4 then some (.seReg x y)
  else if fieldO w = 0x6#4 then some (.ldImm x kk)
  else if fieldO w = 0x7#4 then some (.addImm x kk)
  else if fieldO w = 0x8#4 then decodeGroup8 w
  else if fieldO w = 0x9#4 then some (.sneReg x y)
  else if fieldO w = 0xA#4 then some (.ldI nnn)
  else if fieldO w = 0xB#4 then some (.jpV0 nnn)
  else if fieldO w = 0xC#4 then some (.rnd x kk)
  else if fieldO w = 0xD#4 then some (.drw x y (fieldN w))
  else if fieldO w = 0xE#4 then decodeGroupE w
  else decodeGroupF w

/-- Decode one instruction word: total on the 65536 words (R83, R104). -/
def decodeWord (w : Word) : Decoded :=
  match selectInstr w with
  | some i => .instr i
  | none => .reject (.invalidInstruction w)

/-- The word of two consecutive bytes, the first the high byte: `Mem[a] * 256 + Mem[a + 1]`
(20_memory.md R54). -/
def wordOfBytes (hi lo : Byte) : Word := BitVec.ofNat 16 (hi.toNat * 256 + lo.toNat)

/-- Decode the instruction at the head of a list of bytes as they lie in memory (R70, R71). -/
def decode : List Byte → Decoded
  | hi :: lo :: _ => decodeWord (wordOfBytes hi lo)
  | [_] => .reject .truncated
  | [] => .reject .truncated

/-! ### The encoder (R84), with zeros in the ignored fields (R76, "canonical pattern") -/

/-- The `onnn` form: `o * 4096 + nnn`. -/
def formNNN (o : Nibble) (nnn : Addr) : Word := BitVec.ofNat 16 (o.toNat * 4096 + nnn.toNat)
/-- The `oxkk` form: `o * 4096 + x * 256 + kk`. -/
def formXKK (o : Nibble) (x : Reg) (kk : Byte) : Word :=
  BitVec.ofNat 16 (o.toNat * 4096 + x.toNat * 256 + kk.toNat)
/-- The `oxyn` form: `o * 4096 + x * 256 + y * 16 + n`. -/
def formXYN (o : Nibble) (x y : Reg) (n : Nibble) : Word :=
  BitVec.ofNat 16 (o.toNat * 4096 + x.toNat * 256 + y.toNat * 16 + n.toNat)

/-- The canonical word of an instruction (R76, R84). -/
def encodeWord : Instr → Word
  | .cls => formNNN 0x0#4 0x0E0#12
  | .ret => formNNN 0x0#4 0x0EE#12
  | .sys nnn => formNNN 0x0#4 nnn
  | .jp nnn => formNNN 0x1#4 nnn
  | .call nnn => formNNN 0x2#4 nnn
  | .seImm x kk => formXKK 0x3#4 x kk
  | .sneImm x kk => formXKK 0x4#4 x kk
  | .seReg x y => formXYN 0x5#4 x y 0x0#4
  | .ldImm x kk => formXKK 0x6#4 x kk
  | .addImm x kk => formXKK 0x7#4 x kk
  | .ldReg x y => formXYN 0x8#4 x y 0x0#4
  | .orReg x y => formXYN 0x8#4 x y 0x1#4
  | .andReg x y => formXYN 0x8#4 x y 0x2#4
  | .xorReg x y => formXYN 0x8#4 x y 0x3#4
  | .addReg x y => formXYN 0x8#4 x y 0x4#4
  | .sub x y => formXYN 0x8#4 x y 0x5#4
  | .shr x => formXYN 0x8#4 x 0x0#4 0x6#4
  | .subn x y => formXYN 0x8#4 x y 0x7#4
  | .shl x => formXYN 0x8#4 x 0x0#4 0xE#4
  | .sneReg x y => formXYN 0x9#4 x y 0x0#4
  | .ldI nnn => formNNN 0xA#4 nnn
  | .jpV0 nnn => formNNN 0xB#4 nnn
  | .rnd x kk => formXKK 0xC#4 x kk
  | .drw x y n => formXYN 0xD#4 x y n
  | .skp x => formXKK 0xE#4 x 0x9E#8
  | .sknp x => formXKK 0xE#4 x 0xA1#8
  | .ldVxDT x => formXKK 0xF#4 x 0x07#8
  | .ldVxK x => formXKK 0xF#4 x 0x0A#8
  | .ldDTVx x => formXKK 0xF#4 x 0x15#8
  | .ldSTVx x => formXKK 0xF#4 x 0x18#8
  | .addI x => formXKK 0xF#4 x 0x1E#8
  | .ldF x => formXKK 0xF#4 x 0x29#8
  | .ldB x => formXKK 0xF#4 x 0x33#8
  | .ldStore x => formXKK 0xF#4 x 0x55#8
  | .ldLoad x => formXKK 0xF#4 x 0x65#8

/-- The two bytes of a word as they lie in memory, the high byte first (R54, R84). -/
def bytesOfWord (w : Word) : List Byte := [w.extractLsb' 8 8, w.extractLsb' 0 8]

/-- The bytes of an instruction as they lie in memory. -/
def encode (i : Instr) : List Byte := bytesOfWord (encodeWord i)

/-- The bits of a word that the instruction ignores (R77): a word and its value with these bits changed
spell the same instruction. SYS keeps its `nnn`, so it ignores none here. -/
def ignoredBits : Instr → Word
  | .cls => 0x0F00#16
  | .ret => 0x0F00#16
  | .sys _ => 0x0000#16
  | .jp _ => 0x0000#16
  | .call _ => 0x0000#16
  | .seImm _ _ => 0x0000#16
  | .sneImm _ _ => 0x0000#16
  | .seReg _ _ => 0x000F#16
  | .ldImm _ _ => 0x0000#16
  | .addImm _ _ => 0x0000#16
  | .ldReg _ _ => 0x0000#16
  | .orReg _ _ => 0x0000#16
  | .andReg _ _ => 0x0000#16
  | .xorReg _ _ => 0x0000#16
  | .addReg _ _ => 0x0000#16
  | .sub _ _ => 0x0000#16
  | .shr _ => 0x00F0#16
  | .subn _ _ => 0x0000#16
  | .shl _ => 0x00F0#16
  | .sneReg _ _ => 0x000F#16
  | .ldI _ => 0x0000#16
  | .jpV0 _ => 0x0000#16
  | .rnd _ _ => 0x0000#16
  | .drw _ _ _ => 0x0000#16
  | .skp _ => 0x0000#16
  | .sknp _ => 0x0000#16
  | .ldVxDT _ => 0x0000#16
  | .ldVxK _ => 0x0000#16
  | .ldDTVx _ => 0x0000#16
  | .ldSTVx _ => 0x0000#16
  | .addI _ => 0x0000#16
  | .ldF _ => 0x0000#16
  | .ldB _ => 0x0000#16
  | .ldStore _ => 0x0000#16
  | .ldLoad _ => 0x0000#16

/-- The instruction the decoder reads from a word numbered as spec/opcode_table.json numbers it: the low
`nbits` bits of `w`, every higher bit 0, laid out high byte first. -/
def decodeTableWord (nbits w : Nat) : Option Instr :=
  match decode (bytesOfWord (BitVec.ofNat 16 (w % 2 ^ nbits))) with
  | .instr i => some i
  | .reject _ => none

end Sys2Proof
end

