-- ==== Sys2Proof/Config.lean ====
section
/-! DEFINITION. The sizes the spec fixes (00_scope.md R6) and the free values of the model: the inputs
KEYS and RNDBYTE of a step, on which the spec lays no law (10_state.md R37, R38;
93_implementation_defined.md U9). The parameters that have a default (FONT_BASE, FONT, PROG_BASE,
STACK_DEPTH) are in Machine/Parameters.lean. -/

namespace Sys2Proof

/-- MEM_SIZE: bytes of main memory (R6, R51). -/
abbrev Config.memSize : Nat := 4096

/-- DISP_W: columns of the display (R6). -/
abbrev Config.dispW : Nat := 64

/-- DISP_H: rows of the display (R6). -/
abbrev Config.dispH : Nat := 32

/-- The KEYS that the `k`-th sampling step receives where no input is scheduled: a free value, about
which nothing can be proved (R37, U9; log entry 2). -/
opaque Config.freeKeys : Nat → BitVec 16

/-- The RNDBYTE that the `k`-th sampling step receives where no input is scheduled: a free value, about
which nothing can be proved (R38, U9; log entry 2). -/
opaque Config.freeRnd : Nat → Byte

end Sys2Proof
end

