-- ==== Sys2Proof/Machine/Parameters.lean ====
section
/-! DEFINITION. The parameters of 00_scope.md R6 that the spec gives a default for, at their defaults
(92_eei_decisions.md D1, D2, D3, D7; log entries 4 to 6). -/

namespace Sys2Proof

/-- PROG_BASE: where a program is loaded and where PC points after reset (R6, R58; D1). -/
def Config.progBase : Nat := 0x200

/-- FONT_BASE: the address of glyph 0 (R6, R58; D2). -/
def Config.fontBase : Nat := 0x000

/-- GLYPH_SIZE: bytes per glyph (R6). -/
def Config.glyphSize : Nat := 5

/-- STACK_DEPTH: entries of the call stack (R6, R28; D7). -/
def Config.stackDepth : Nat := 16

/-- FONT: the sixteen glyphs of 20_memory.md R59, five bytes each, the top row first (D3). -/
def Config.font : List Byte :=
  [ 0xF0, 0x90, 0x90, 0x90, 0xF0,   -- 0
    0x20, 0x60, 0x20, 0x20, 0x70,   -- 1
    0xF0, 0x10, 0xF0, 0x80, 0xF0,   -- 2
    0xF0, 0x10, 0xF0, 0x10, 0xF0,   -- 3
    0x90, 0x90, 0xF0, 0x10, 0x10,   -- 4
    0xF0, 0x80, 0xF0, 0x10, 0xF0,   -- 5
    0xF0, 0x80, 0xF0, 0x90, 0xF0,   -- 6
    0xF0, 0x10, 0x20, 0x40, 0x40,   -- 7
    0xF0, 0x90, 0xF0, 0x90, 0xF0,   -- 8
    0xF0, 0x90, 0xF0, 0x10, 0xF0,   -- 9
    0xF0, 0x90, 0xF0, 0x90, 0x90,   -- A
    0xE0, 0x90, 0xE0, 0x90, 0xE0,   -- B
    0xF0, 0x80, 0x80, 0x80, 0xF0,   -- C
    0xE0, 0x90, 0x90, 0x90, 0xE0,   -- D
    0xF0, 0x80, 0xF0, 0x80, 0xF0,   -- E
    0xF0, 0x80, 0xF0, 0x80, 0x80 ]  -- F

end Sys2Proof
end

