-- ==== Sys2Proof/Machine/Memory.lean ====
section
/-! DEFINITION. Main memory as plain data (20_memory.md R50 to R53, R58): a list of the bytes that differ
from the reset contents, in one canonical form. -/

namespace Sys2Proof.Machine

/-- Main memory: (address, byte) pairs in rising order of address; an address that is not listed reads
as its reset contents. -/
abbrev Memory := List Host.Cell

/-- What an unlisted address reads as: the reset contents of memory, FONT at FONT_BASE and 0x00
everywhere else (10_state.md R42, 20_memory.md R58, R59; log entry 10). -/
def Memory.background (a : Nat) : Byte :=
  if Config.fontBase ≤ a ∧ a < Config.fontBase + Config.font.length then
    Config.font.getD (a - Config.fontBase) 0x00#8
  else 0x00#8

/-- The byte at address `a` (R52). The bounds of R61 are checked by the accesses, before it is read. -/
def Memory.get : Memory → Nat → Byte
  | [], a => Memory.background a
  | (c, b) :: m, a => if a = c then b else Memory.get m a

/-- The pairs of `m` at other addresses than `a`. -/
def Memory.erase (m : Memory) (a : Nat) : Memory := m.filter (fun c => c.1 != a)

/-- Put a pair before the first pair of a higher address. -/
def Memory.insertCell : Memory → Nat → Byte → Memory
  | [], a, b => [(a, b)]
  | (c, d) :: m, a, b => if a < c then (a, b) :: (c, d) :: m else (c, d) :: Memory.insertCell m a b

/-- Store byte `b` at address `a` (R53). Storing what an unlisted address reads as unlists it. -/
def Memory.set (m : Memory) (a : Nat) (b : Byte) : Memory :=
  if b = Memory.background a then Memory.erase m a
  else Memory.insertCell (Memory.erase m a) a b

/-- Store a list of bytes at ascending addresses from `a` (R55, R57). -/
def Memory.setBytes : Memory → Nat → List Byte → Memory
  | m, _, [] => m
  | m, a, b :: bs => Memory.setBytes (Memory.set m a b) (a + 1) bs

/-- The canonical form: addresses strictly rising and below 4096 (R51), no entry equal to what an
unlisted address reads as. -/
abbrev Memory.wf (m : Memory) : Prop :=
  m.Pairwise (fun c d => c.1 < d.1) ∧
  ∀ c ∈ m, c.1 < Config.memSize ∧ c.2 ≠ Memory.background c.1

end Sys2Proof.Machine
end

