-- ==== Sys2Proof/Machine/State.lean ====
section
/-! DEFINITION. The state of the machine as plain data: every element of 10_state.md R20, and two fields
of the model's own for the inputs of a step (`inputs`, `draws`; log entry 2). -/

namespace Sys2Proof.Machine

/-- FAULT's kinds (10_state.md R36, 60_exceptions.md R200). They are values of the state: taking a fault
is a next state (R206), not an end of the run of the model. -/
inductive FaultKind where
  /-- Code 1: an unrecognised sub-opcode (R201). -/
  | invalidInstruction
  /-- Code 2: `RET` on an empty stack (R202). -/
  | stackUnderflow
  /-- Code 3: `CALL` on a full stack (R203). -/
  | stackOverflow
  /-- Code 4: an access that passes address 0x0FFF (R204). -/
  | memoryOutOfBounds
  deriving DecidableEq, Repr

/-- Why a step could stop with no next state. It has NO constructor: the spec gives every step a next
state, its faults included, since a fault is latched in FAULT (R206) and a halted step is the identity
(R101). Nobody raises one, so it is neither safe nor unsafe (log entry 1). -/
inductive Fault where
  deriving DecidableEq, Repr

/-- Why a move could have no meaning. -/
inductive Refusal where
  /-- Raised by exec's arm of an instruction that has no meaning yet; safe. No arm raises it. -/
  | notModelled (mnemonic : String)
  /-- Raised by the host's load move, never by a step: a program longer than 4096 - PROG_BASE bytes is
  refused by the loader (60_exceptions.md R205, 70_reset_and_hazards.md R236); safe. -/
  | loadFailure (length : Nat)
  deriving DecidableEq, Repr

/-- The two inputs of one step: KEYS, bit `k` set when virtual key `k` is pressed (R37), and RNDBYTE
(R38). -/
structure StepInput where
  keys : BitVec 16
  rnd  : Byte
  deriving DecidableEq, Repr

/-- FB: 32 rows of 64 pixels, `fb[r][c]` the pixel in row `r` and column `c`, `true` set (R34). -/
abbrev Display := Vector (Vector Bool Config.dispW) Config.dispH

/-- The state of the core (10_state.md R20). -/
structure State where
  /-- `Mem`, 4096 bytes (R33) -/
  mem       : Memory
  /-- `V[0..15]` (R21) -/
  v         : Vector Byte 16
  /-- `I` (R23) -/
  i         : Word
  /-- `PC` (R24) -/
  pc        : Word
  /-- `STACK`, the newest entry first; `SP` is its length (R28) -/
  stack     : List Word
  /-- `DT` (R31) -/
  dt        : Byte
  /-- `ST` (R32) -/
  st        : Byte
  /-- `FB` (R34) -/
  fb        : Display
  /-- `DIRTY` (R35) -/
  dirty     : Bool
  /-- `FAULT` (R36) -/
  fault     : Option FaultKind
  /-- `FAULT_INFO` (R36) -/
  faultInfo : Word
  /-- The model's own: the inputs of the coming steps, the next one first (R100, R111; log entry 2). -/
  inputs    : List StepInput
  /-- The model's own: how many steps have sampled inputs; it selects the free values (log entry 2). -/
  draws     : Nat
  deriving DecidableEq, Repr

/-- The machine right after reset (10_state.md R42, 70_reset_and_hazards.md R230). -/
def State.reset : State where
  mem       := []
  v         := Vector.replicate 16 0x00#8
  i         := 0x0000#16
  pc        := BitVec.ofNat 16 Config.progBase
  stack     := []
  dt        := 0x00#8
  st        := 0x00#8
  fb        := Vector.replicate Config.dispH (Vector.replicate Config.dispW false)
  dirty     := false
  fault     := none
  faultInfo := 0x0000#16
  inputs    := []
  draws     := 0

end Sys2Proof.Machine
end

