-- ==== Sys2Proof/Machine/Ops.lean ====
section
/-! DEFINITION. The named operations over the state: one reader and one writer per state element, memory
accesses with the bounds rule, the call stack, taking a fault, and the inputs of a step. -/

namespace Sys2Proof.Machine

/-- What an instruction or a step answers. -/
abbrev Outcome := Host.Outcome State Fault Refusal

/-! ### General registers (10_state.md R21) -/

/-- `V[x]` -/
def State.reg (s : State) (x : Reg) : Byte := s.v[x.toNat]'x.isLt

/-- `V[x] <- b`. No register is hardwired and no other register changes (R21, R43). -/
def State.setReg (s : State) (x : Reg) (b : Byte) : State := { s with v := s.v.set x.toNat b x.isLt }

/-- `VF <- b`, where an instruction writes VF as the flag register (R22). -/
def State.setFlag (s : State) (b : Byte) : State := s.setReg Reg.vf b

/-! ### The other registers -/

/-- `I <- w` (R23) -/
def State.setI (s : State) (w : Word) : State := { s with i := w }

/-- `PC <- w` (R24) -/
def State.setPc (s : State) (w : Word) : State := { s with pc := w }

/-- `DT <- b` (R31) -/
def State.setDt (s : State) (b : Byte) : State := { s with dt := b }

/-- `ST <- b` (R32) -/
def State.setSt (s : State) (b : Byte) : State := { s with st := b }

/-- `FB <- f` (R34) -/
def State.setFb (s : State) (f : Display) : State := { s with fb := f }

/-- `DIRTY <- 1`: the core only ever sets it (R35) -/
def State.markDirty (s : State) : State := { s with dirty := true }

/-- `PC <- PC + 2`, modulo 65536 (R26): the advance of R103 and the skip of R130 to R135 -/
def State.advancePc (s : State) : State := s.setPc (s.pc + 2#16)

/-- Skip the next word if `c` holds (R125) -/
def State.skipIf (s : State) (c : Bool) : State := if c then s.advancePc else s

/-- `FB[r][c]` as the host reads it (R34, R217); outside the frame there is no pixel, and it reads 0. -/
def State.pixel (s : State) (r c : Nat) : Bool :=
  if h : r < Config.dispH ∧ c < Config.dispW then s.fb[r][c] else false

/-! ### Taking a fault (60_exceptions.md R206) -/

/-- `raise F(info)`: FAULT and FAULT_INFO are written and nothing else is. There is no vector, no saved
register and no mode change. Beside it stands no return: no instruction leaves the halted state (R208),
and only reset does (R230; HostMove.reset). -/
def State.raise (s : State) (k : FaultKind) (info : Word) : State :=
  { s with fault := some k, faultInfo := info }

/-- FAULT is not None (R101, R207). -/
def State.halted (s : State) : Bool := s.fault.isSome

/-! ### Memory (20_memory.md R52 to R61) -/

/-- `Mem[a]` (R52); the caller has checked the bounds. -/
def State.memByte (s : State) (a : Nat) : Byte := s.mem.get a

/-- Bytes stored at ascending addresses from `a` (R53, R57); the caller has checked the bounds. -/
def State.storeBytes (s : State) (a : Nat) (bs : List Byte) : State :=
  { s with mem := s.mem.setBytes a bs }

/-- The range of `len` bytes from `lo`, a range of natural numbers with no wrap, passes address 4095; an
empty range passes nothing (R61). -/
def rangeOut (lo len : Nat) : Bool := decide (0 < len ∧ 4095 < lo + len - 1)

/-- The lowest out-of-range address of a range from `lo` that passes 4095 (R61). -/
def lowestOut (lo : Nat) : Word := BitVec.ofNat 16 (max lo 4096)

/-- The bounds rule of R61 for an instruction that touches `len` bytes from `I`: the whole range is
checked first, and if it passes 4095 the instruction raises MemoryOutOfBounds and does nothing else. -/
def State.checkedFromI (s : State) (len : Nat) (effect : State) : State :=
  if rangeOut s.i.toNat len then s.raise .memoryOutOfBounds (lowestOut s.i.toNat) else effect

/-- `V[k] <- Mem[a + k]` for `k` in `0 .. count - 1`, ascending (R165). -/
def State.loadRegs (s : State) (a : Nat) : Nat → State
  | 0 => s
  | k + 1 => (State.loadRegs s a k).setReg (BitVec.ofNat 4 k) (s.memByte (a + k))

/-- `V[0], V[1], ...`, `count` of them, as a list of bytes in ascending order (R164). -/
def State.regBytes (s : State) (count : Nat) : List Byte :=
  (List.range count).map (fun k => s.reg (BitVec.ofNat 4 k))

/-! ### The call stack (10_state.md R28 to R30) -/

/-- `SP` -/
def State.sp (s : State) : Nat := s.stack.length

/-- `Push(w)`, then PC is `target` (R29, R123): StackOverflow on a full stack, and then nothing is pushed
and PC keeps its value. -/
def State.pushThenJump (s : State) (w target : Word) : State :=
  if Config.stackDepth ≤ s.sp then s.raise .stackOverflow 0x0000#16
  else { s with stack := w :: s.stack, pc := target }

/-- `Pop()` into PC (R30, R121): StackUnderflow on an empty stack, else the newest entry is removed and
becomes PC. -/
def State.popIntoPc (s : State) : State :=
  match s.stack with
  | [] => s.raise .stackUnderflow 0x0000#16
  | w :: rest => { s with stack := rest, pc := w }

/-! ### The inputs of a step (10_state.md R37, R38; log entry 2) -/

/-- KEYS of this step: the scheduled snapshot, or a free value where none is scheduled. -/
def State.keys (s : State) : BitVec 16 :=
  match s.inputs with
  | [] => Config.freeKeys s.draws
  | x :: _ => x.keys

/-- RNDBYTE of this step: the scheduled byte, or a free value where none is scheduled. -/
def State.rnd (s : State) : Byte :=
  match s.inputs with
  | [] => Config.freeRnd s.draws
  | x :: _ => x.rnd

/-- The next step samples the inputs `x` (R216, R218). -/
def State.withInput (s : State) (x : StepInput) : State := { s with inputs := x :: s.inputs }

/-- The step's inputs are used up; the next step samples its own (R37, R218). -/
def State.nextInput (s : State) : State := { s with inputs := s.inputs.tail, draws := s.draws + 1 }

end Sys2Proof.Machine
end

