-- ==== Sys2Proof/Machine/Cycle.lean ====
section
/-! DEFINITION. The phases of a step around Execute (40_cycle.md R102, R103, R107, R110), and placing a
word where the next fetch reads it. -/

namespace Sys2Proof.Machine

/-- What Fetch gives: the two bytes of a word, or the lowest out-of-range address (R102). -/
inductive Fetched where
  | bytes (hi lo : Byte)
  | outOfBounds (a : Word)
  deriving DecidableEq, Repr

/-- Fetch: two consecutive bytes at PC, the first the high byte, if PC is at most 0x0FFE (R102). -/
def State.fetch (s : State) : Fetched :=
  if 0x0FFE < s.pc.toNat then
    .outOfBounds (if 0x0FFF < s.pc.toNat then s.pc else s.pc + 1#16)
  else .bytes (s.memByte s.pc.toNat) (s.memByte (s.pc.toNat + 1))

/-- One timer's tick: down by 1 while above 0 (R31, R107). -/
def tickByte (t : Byte) : Byte := if 0 < t.toNat then t - 1#8 else t

/-- TimerTick: DT, then ST (R107). -/
def State.timerTick (s : State) : State := (s.setDt (tickByte s.dt)).setSt (tickByte s.st)

/-- The end of a step: TimerTick unless the step raised a fault (R107, R110); the step's inputs are used
up (R218). -/
def State.endStep (s : State) : State := (if s.halted then s else s.timerTick).nextInput

/-- Decode raised: the fault and its information (R78, R201). A fetch gives two bytes, so `truncated`
does not arise from a step. -/
def State.raiseReject (s : State) : Reject → State
  | .invalidInstruction w => s.raise .invalidInstruction w
  | .truncated => s.raise .invalidInstruction 0x0000#16

/-- The state with the word `w` stored, high byte first, where the next step fetches: at PC, if a word
can be fetched there, else at PROG_BASE with PC set to it; FAULT is cleared, or the next step would fetch
nothing (R101, R102; log entry 3). -/
def State.placeWord (s : State) (w : Word) : State :=
  let a : Word := if 0x0FFE < s.pc.toNat then BitVec.ofNat 16 Config.progBase else s.pc
  ({ s with pc := a, fault := none }).storeBytes a.toNat (bytesOfWord w)

end Sys2Proof.Machine
end

