-- ==== Sys2Proof/Machine/Operands.lean ====
section
/-! DEFINITION. The operand forms (30_encoding.md R72, 44_index_memory.md R166): immediates as they are
written to a register, and the values an instruction forms from a register operand. -/

namespace Sys2Proof.Machine

/-- `zext_16(nnn)` (R72) -/
def addrWord (nnn : Addr) : Word := nnn.setWidth 16

/-- The target of `JP V0,addr`: `zext_16(nnn) + zext_16(V[0])`, at most 0x10FE, not masked (R124). -/
def indexedTarget (nnn : Addr) (v0 : Byte) : Word := nnn.setWidth 16 + v0.setWidth 16

/-- `I + zext_16(vx)` modulo 65536 (R161) -/
def indexSum (i : Word) (vx : Byte) : Word := i + vx.setWidth 16

/-- `(FONT_BASE + 5 * vx) mod 65536`, on the whole byte (R162; log entry 7) -/
def glyphAddress (vx : Byte) : Word :=
  BitVec.ofNat 16 (Config.fontBase + Config.glyphSize * vx.toNat)

/-- The three decimal digits of `vx`, hundreds first (R163) -/
def bcdDigits (vx : Byte) : List Byte :=
  [ BitVec.ofNat 8 (vx.toNat / 100), BitVec.ofNat 8 (vx.toNat / 10 % 10), BitVec.ofNat 8 (vx.toNat % 10) ]

/-- `KEYS[k]` for the key number `k = vx[3:0]` (R134; log entry 8) -/
def keyPressed (keys : BitVec 16) (vx : Byte) : Bool := keys.getLsbD (vx.setWidth 4).toNat

/-- The least `k` with `KEYS[k] = 1`, if a key is pressed (R181) -/
def lowestKey (keys : BitVec 16) : Option Nat := (List.range 16).find? (fun k => keys.getLsbD k)

/-- The column of a sprite's left edge: `vx mod 64` (R171) -/
def originCol (vx : Byte) : Nat := vx.toNat % Config.dispW

/-- The row of a sprite's top edge: `vy mod 32` (R171) -/
def originRow (vy : Byte) : Nat := vy.toNat % Config.dispH

/-- How many registers a block form moves: `V[0] .. V[x]` (R164, R165) -/
def blockCount (x : Reg) : Nat := x.toNat + 1

end Sys2Proof.Machine
end

