-- ==== Sys2Proof/Machine/Flags.lean ====
section
/-! DEFINITION. The results and the flags of the register arithmetic (43_alu.md R146 to R150, R153), each
computed from the latched operands, and the order in which they are written (40_cycle.md R106). -/

namespace Sys2Proof.Machine

/-- A flag as the byte VF receives (R22). -/
def flagByte (b : Bool) : Byte := if b then 0x01#8 else 0x00#8

/-- The carry of `vx + vy` (R146) -/
def carryFlag (vx vy : Byte) : Byte := flagByte (decide (255 < vx.toNat + vy.toNat))

/-- 1 iff `a > b`, strictly (R147, R149) -/
def greaterFlag (a b : Byte) : Byte := flagByte (decide (b.toNat < a.toNat))

/-- Bit 0, which a shift right loses (R148) -/
def lowBitFlag (vx : Byte) : Byte := flagByte (vx.getLsbD 0)

/-- Bit 7, which a shift left loses (R150) -/
def highBitFlag (vx : Byte) : Byte := flagByte (vx.getLsbD 7)

/-- `(a + b) mod 256` (R141, R146, R153) -/
def sumByte (a b : Byte) : Byte := BitVec.ofNat 8 (a.toNat + b.toNat)

/-- `(a - b) mod 256`, as `(a + 256 - b) mod 256` (R147, R149, R153) -/
def diffByte (a b : Byte) : Byte := BitVec.ofNat 8 (a.toNat + 256 - b.toNat)

/-- `vx div 2` (R148) -/
def halfByte (vx : Byte) : Byte := BitVec.ofNat 8 (vx.toNat / 2)

/-- `(vx * 2) mod 256` (R150) -/
def doubleByte (vx : Byte) : Byte := BitVec.ofNat 8 (vx.toNat * 2)

/-- The flag to VF first, the result to `V[x]` second, so that with `x` = F the result remains
(R106; log entry 9). -/
def State.writeFlagged (s : State) (x : Reg) (flag result : Byte) : State :=
  (s.setFlag flag).setReg x result

end Sys2Proof.Machine
end

