-- ==== Sys2Proof/Machine/Alu.lean ====
section
/-! DEFINITION. Register load, arithmetic, logic, shifts and random (43_alu.md R140 to R151). -/

namespace Sys2Proof.Machine

/-- `LD Vx,kk` (R140) -/
def execLdImm (x : Reg) (kk : Byte) (s : State) : Outcome := .next (s.setReg x kk)

/-- `ADD Vx,kk`: no flag (R141) -/
def execAddImm (x : Reg) (kk : Byte) (s : State) : Outcome := .next (s.setReg x (sumByte (s.reg x) kk))

/-- `LD Vx,Vy` (R142) -/
def execLdReg (x y : Reg) (s : State) : Outcome := .next (s.setReg x (s.reg y))

/-- `OR Vx,Vy`: no flag (R143) -/
def execOrReg (x y : Reg) (s : State) : Outcome := .next (s.setReg x (s.reg x ||| s.reg y))

/-- `AND Vx,Vy`: no flag (R144) -/
def execAndReg (x y : Reg) (s : State) : Outcome := .next (s.setReg x (s.reg x &&& s.reg y))

/-- `XOR Vx,Vy`: no flag (R145) -/
def execXorReg (x y : Reg) (s : State) : Outcome := .next (s.setReg x (s.reg x ^^^ s.reg y))

/-- `ADD Vx,Vy` (R146) -/
def execAddReg (x y : Reg) (s : State) : Outcome :=
  .next (s.writeFlagged x (carryFlag (s.reg x) (s.reg y)) (sumByte (s.reg x) (s.reg y)))

/-- `SUB Vx,Vy` (R147) -/
def execSub (x y : Reg) (s : State) : Outcome :=
  .next (s.writeFlagged x (greaterFlag (s.reg x) (s.reg y)) (diffByte (s.reg x) (s.reg y)))

/-- `SHR Vx` (R148) -/
def execShr (x : Reg) (s : State) : Outcome :=
  .next (s.writeFlagged x (lowBitFlag (s.reg x)) (halfByte (s.reg x)))

/-- `SUBN Vx,Vy` (R149) -/
def execSubn (x y : Reg) (s : State) : Outcome :=
  .next (s.writeFlagged x (greaterFlag (s.reg y) (s.reg x)) (diffByte (s.reg y) (s.reg x)))

/-- `SHL Vx` (R150) -/
def execShl (x : Reg) (s : State) : Outcome :=
  .next (s.writeFlagged x (highBitFlag (s.reg x)) (doubleByte (s.reg x)))

/-- `RND Vx,kk` (R151) -/
def execRnd (x : Reg) (kk : Byte) (s : State) : Outcome := .next (s.setReg x (s.rnd &&& kk))

end Sys2Proof.Machine
end

