-- ==== Sys2Proof/Machine/Control.lean ====
section
/-! DEFINITION. Control transfer (41_control.md R120 to R124). PC already holds the instruction's own
address plus 2 (40_cycle.md R103). -/

namespace Sys2Proof.Machine

/-- `SYS addr`: nothing (R120). -/
def execSys (_nnn : Addr) (s : State) : Outcome := .next s

/-- `RET`: pop the stack into PC; StackUnderflow if it is empty (R121). -/
def execRet (s : State) : Outcome := .next s.popIntoPc

/-- `JP addr`: PC is `nnn` (R122). -/
def execJp (nnn : Addr) (s : State) : Outcome := .next (s.setPc (addrWord nnn))

/-- `CALL addr`: push PC, PC is `nnn`; StackOverflow if the stack is full (R123). -/
def execCall (nnn : Addr) (s : State) : Outcome := .next (s.pushThenJump s.pc (addrWord nnn))

/-- `JP V0,addr`: PC is `nnn + V[0]` (R124). -/
def execJpV0 (nnn : Addr) (s : State) : Outcome := .next (s.setPc (indexedTarget nnn (s.reg Reg.v0)))

end Sys2Proof.Machine
end

