-- ==== Sys2Proof/Machine/Display.lean ====
section
/-! DEFINITION. The display instructions: CLS and the sprite XOR blitter (45_display.md R170 to R173). -/

namespace Sys2Proof.Machine

/-- All 2048 pixels 0 (R170). -/
def clearDisplay : Display := Vector.replicate Config.dispH (Vector.replicate Config.dispW false)

/-- The display and the collision so far, as a sprite is drawn (R171). -/
structure Canvas where
  fb        : Display
  collision : Bool
  deriving DecidableEq, Repr

/-- One sprite bit `bit` at (`row`, `col`): clipped outside the frame; else XORed into the pixel, with a
collision iff the pixel and the bit are both 1 (R171). -/
def plot (c : Canvas) (row col : Nat) (bit : Bool) : Canvas :=
  if h : row < Config.dispH ∧ col < Config.dispW then
    { fb := c.fb.set row (c.fb[row].set col (c.fb[row][col] ^^ bit))
      collision := c.collision || (bit && c.fb[row][col]) }
  else c

/-- The leftmost `count` bits of the sprite row `b`, most significant first, from column `ox` on (R171). -/
def plotBits (c : Canvas) (row ox : Nat) (b : Byte) : Nat → Canvas
  | 0 => c
  | j + 1 => plot (plotBits c row ox b j) row (ox + j) (b.getLsbD (7 - j))

/-- The first `count` rows of the sprite at address `a` of memory, from row `oy` on (R171). -/
def plotRows (m : Memory) (c : Canvas) (oy ox a : Nat) : Nat → Canvas
  | 0 => c
  | r + 1 => plotBits (plotRows m c oy ox a r) (oy + r) ox (m.get (a + r)) 8

/-- What DRW draws: `n` rows from memory at I, the origin from the latched `vx` and `vy` (R171). -/
def State.sprite (s : State) (vx vy : Byte) (n : Nibble) : Canvas :=
  plotRows s.mem ⟨s.fb, false⟩ (originRow vy) (originCol vx) s.i.toNat n.toNat

/-- The drawing, the collision to VF, and DIRTY set whether or not a pixel changed (R171, R173). -/
def State.showCanvas (s : State) (c : Canvas) : State :=
  ((s.setFlag (flagByte c.collision)).setFb c.fb).markDirty

/-- `CLS` (R170) -/
def execCls (s : State) : Outcome := .next (s.setFb clearDisplay).markDirty

/-- `DRW Vx,Vy,n` (R171): the bounds check of all `n` row bytes first; with `n` = 0 there is none. -/
def execDrw (x y : Reg) (n : Nibble) (s : State) : Outcome :=
  .next (s.checkedFromI n.toNat (s.showCanvas (s.sprite (s.reg x) (s.reg y) n)))

end Sys2Proof.Machine
end

