-- ==== Sys2Proof/Machine/IndexMemory.lean ====
section
/-! DEFINITION. The index register, font addresses, BCD, block store and block load
(44_index_memory.md R160 to R165). -/

namespace Sys2Proof.Machine

/-- `LD I,addr` (R160) -/
def execLdI (nnn : Addr) (s : State) : Outcome := .next (s.setI (addrWord nnn))

/-- `ADD I,Vx`: no flag (R161) -/
def execAddI (x : Reg) (s : State) : Outcome := .next (s.setI (indexSum s.i (s.reg x)))

/-- `LD F,Vx` (R162) -/
def execLdF (x : Reg) (s : State) : Outcome := .next (s.setI (glyphAddress (s.reg x)))

/-- `LD B,Vx`: the digits at I, I+1, I+2; I unchanged (R163) -/
def execLdB (x : Reg) (s : State) : Outcome :=
  .next (s.checkedFromI 3 (s.storeBytes s.i.toNat (bcdDigits (s.reg x))))

/-- `LD [I],Vx`: `V[0] .. V[x]` to memory from I; I unchanged (R164) -/
def execLdStore (x : Reg) (s : State) : Outcome :=
  .next (s.checkedFromI (blockCount x) (s.storeBytes s.i.toNat (s.regBytes (blockCount x))))

/-- `LD Vx,[I]`: `V[0] .. V[x]` from memory at I; I unchanged (R165) -/
def execLdLoad (x : Reg) (s : State) : Outcome :=
  .next (s.checkedFromI (blockCount x) (s.loadRegs s.i.toNat (blockCount x)))

end Sys2Proof.Machine
end

