-- ==== Sys2Proof/Machine/Skips.lean ====
section
/-! DEFINITION. Conditional skips (42_skips.md R130 to R135). -/

namespace Sys2Proof.Machine

/-- `SE Vx,kk` (R130) -/
def execSeImm (x : Reg) (kk : Byte) (s : State) : Outcome := .next (s.skipIf (s.reg x == kk))

/-- `SNE Vx,kk` (R131) -/
def execSneImm (x : Reg) (kk : Byte) (s : State) : Outcome := .next (s.skipIf (s.reg x != kk))

/-- `SE Vx,Vy` (R132) -/
def execSeReg (x y : Reg) (s : State) : Outcome := .next (s.skipIf (s.reg x == s.reg y))

/-- `SNE Vx,Vy` (R133) -/
def execSneReg (x y : Reg) (s : State) : Outcome := .next (s.skipIf (s.reg x != s.reg y))

/-- `SKP Vx` (R134) -/
def execSkp (x : Reg) (s : State) : Outcome := .next (s.skipIf (keyPressed s.keys (s.reg x)))

/-- `SKNP Vx` (R135) -/
def execSknp (x : Reg) (s : State) : Outcome := .next (s.skipIf (!keyPressed s.keys (s.reg x)))

end Sys2Proof.Machine
end

