-- ==== Sys2Proof/Machine/TimersKeys.lean ====
section
/-! DEFINITION. The timer and key-wait instructions (46_timers_keys.md R180 to R183). The values of DT and
ST are those at the end of Execute; the step's own TimerTick follows (40_cycle.md R107). -/

namespace Sys2Proof.Machine

/-- `LD Vx,DT` (R180) -/
def execLdVxDT (x : Reg) (s : State) : Outcome := .next (s.setReg x s.dt)

/-- What `LD Vx,K` does with the lowest pressed key: none, and PC goes back to the instruction; or one,
and its number goes to Vx (R181). -/
def State.takeKey (s : State) (x : Reg) : Option Nat → State
  | none => s.setPc (s.pc - 2#16)
  | some k => s.setReg x (BitVec.ofNat 8 k)

/-- `LD Vx,K` (R181) -/
def execLdVxK (x : Reg) (s : State) : Outcome := .next (s.takeKey x (lowestKey s.keys))

/-- `LD DT,Vx` (R182) -/
def execLdDTVx (x : Reg) (s : State) : Outcome := .next (s.setDt (s.reg x))

/-- `LD ST,Vx` (R183) -/
def execLdSTVx (x : Reg) (s : State) : Outcome := .next (s.setSt (s.reg x))

end Sys2Proof.Machine
end

