-- ==== Sys2Proof/Machine/Step.lean ====
section
/-! DEFINITION. One step of the core (40_cycle.md R100). -/

namespace Sys2Proof.Machine

/-- Decode the fetched bytes and execute, on the state after the PC advance (R100, R104, R105, R110). -/
def stepBytes (hi lo : Byte) (s : State) : Host.Outcome State Fault Refusal :=
  match decode [hi, lo] with
  | .reject r => .next (s.raiseReject r).endStep
  | .instr i =>
    match exec i s with
    | .next t => .next t.endStep
    | .fault r => .fault r
    | .refused r => .refused r

/-- One step: nothing if halted (R101), else Fetch, PC advance, Decode, Execute, TimerTick (R100). The
Flush phase is the host's (R108; HostMove.flushAck). -/
def step (s : State) : Host.Outcome State Fault Refusal :=
  if s.halted then .next s
  else
    match s.fetch with
    | .outOfBounds a => .next (s.raise .memoryOutOfBounds a).endStep
    | .bytes hi lo => stepBytes hi lo s.advancePc

/-- `s` with the instruction word of the low `nbits` bits of `w` (the higher bits 0) where the next step
fetches it (log entry 3). -/
def State.withFetchWord (s : State) (nbits w : Nat) : State :=
  s.placeWord (BitVec.ofNat 16 (w % 2 ^ nbits))

end Sys2Proof.Machine
end

