-- ==== Sys2Proof/Machine/Boundary.lean ====
section
/-! DEFINITION. The host's side of the core's boundary (60_exceptions.md R214 to R219, R223;
70_reset_and_hazards.md R230, R235 to R237): what the host may do between steps, and what it reads. -/

namespace Sys2Proof.Machine

/-! ### The moves -/

/-- Reset: every state element of the core at its reset value (R230). The inputs still to come are the
host's and stay as they are, so that the free values after a reset are fresh (log entry 2). -/
def State.hostReset (s : State) : State := { State.reset with inputs := s.inputs, draws := s.draws }

/-- Program load: the bytes verbatim from PROG_BASE upward; a program longer than 4096 - PROG_BASE bytes
is a load failure and the core is not stepped (R205, R236). -/
def State.loadProgram (s : State) (program : List Byte) : Outcome :=
  if Config.memSize - Config.progBase < program.length then .refused (.loadFailure program.length)
  else .next (s.storeBytes Config.progBase program)

/-- The launch state of a program: reset, then the load (R235, R237). -/
def launch (program : List Byte) : Outcome := State.reset.loadProgram program

/-- Flush acknowledge: DIRTY is cleared and FB is not changed (R217). -/
def State.flushAck (s : State) : State := { s with dirty := false }

/-- Invoke a step with KEYS and RNDBYTE (R100, R216); on a halted core the identity (R101). -/
def State.invoke (s : State) (keys : BitVec 16) (rnd : Byte) : Outcome :=
  if s.halted then .next s else step (s.withInput ⟨keys, rnd⟩)

/-- What the host can do to the core, between steps only (R216). -/
inductive HostMove where
  | reset
  | load (program : List Byte)
  | step (keys : BitVec 16) (rnd : Byte)
  | flushAck
  deriving DecidableEq, Repr

/-- The core and the host's place in the boot sequence (R235): `loadable` from a reset until the first
load or the first step, since the load happens once, after reset and before the first step (R236, R216,
R223; log entry 11). -/
structure Session where
  core     : State
  loadable : Bool
  deriving DecidableEq, Repr

/-- Put the core's new state into the session. -/
def Session.after (o : Outcome) (loadable : Bool) : Host.Outcome Session Fault Refusal :=
  match o with
  | .next t => .next ⟨t, loadable⟩
  | .fault r => .fault r
  | .refused r => .refused r

/-- One move of the host (R216). A load is honoured once, after a reset and before the first step (R236);
a load that is not honoured changes nothing (R223). -/
def Session.move (h : Session) : HostMove → Host.Outcome Session Fault Refusal
  | .reset => .next ⟨h.core.hostReset, true⟩
  | .load program => if h.loadable then Session.after (h.core.loadProgram program) false else .next h
  | .step keys rnd => Session.after (h.core.invoke keys rnd) false
  | .flushAck => .next { h with core := h.core.flushAck }

/-! ### What the host reads (R214, R217, R223) -/

/-- `sound_active`: the level ST > 0 (R214). -/
def State.soundActive (s : State) : Bool := decide (0 < s.st.toNat)

/-- `fb`, row-major: bit `r * 64 + c` is `FB[r][c]` (R217, R223). -/
def State.fbPort (s : State) (k : Nat) : Bool := s.pixel (k / Config.dispW) (k % Config.dispW)

/-- `fault_kind`: the code of R200. -/
def State.faultCode (s : State) : BitVec 3 :=
  match s.fault with
  | none => 0#3
  | some .invalidInstruction => 1#3
  | some .stackUnderflow => 2#3
  | some .stackOverflow => 3#3
  | some .memoryOutOfBounds => 4#3

end Sys2Proof.Machine
end

