-- ==== Sys2Proof/Safety.lean ====
section
/-! DEFINITION. The terms claims are stated in: the invariant of the machine, the states a host can bring
it to, and frames (what an instruction leaves unchanged). -/

namespace Sys2Proof.Machine

/-! ### The invariant -/

/-- FAULT_INFO is what R200 gives for the latched fault, and for the stack faults the stack is as the
fault found it (R202, R203). -/
def State.faultInfoOk (s : State) : Bool :=
  match s.fault with
  | none => s.faultInfo == 0x0000#16
  | some .invalidInstruction => (selectInstr s.faultInfo).isNone
  | some .stackUnderflow => s.faultInfo == 0x0000#16 && s.stack.isEmpty
  | some .stackOverflow => s.faultInfo == 0x0000#16 && s.stack.length == Config.stackDepth
  | some .memoryOutOfBounds => decide (0x1000 ≤ s.faultInfo.toNat)

/-- What holds in every state a host can bring the machine to: memory is in its canonical form; PC is at
most 0x10FE and the stack holds at most STACK_DEPTH return addresses, each at most 0x1000 (R26, R28); the
fault registers agree (R36, R200). -/
abbrev State.Inv (s : State) : Prop :=
  s.mem.wf ∧
  s.pc.toNat ≤ 0x10FE ∧
  s.stack.length ≤ Config.stackDepth ∧
  (s.stack.all fun w => decide (w.toNat ≤ 0x1000)) = true ∧
  s.faultInfoOk = true

/-- The sessions a host can bring about: a reset of a core in any state at all, and then any moves of the
host (R216, R235), with any inputs. -/
inductive Session.Reachable : Session → Prop where
  | reset (s : State) : Session.Reachable ⟨s.hostReset, true⟩
  | move {h h' : Session} (m : HostMove) :
      Session.Reachable h → h.move m = .next h' → Session.Reachable h'

/-- The core has raised no fault: what a program that runs well keeps (R207). -/
def State.safe (s : State) : Prop := s.fault = none

/-! ### Frames -/

/-- What an instruction may change. A field left out of it is unchanged. -/
structure Changes where
  /-- general registers -/
  regs     : List Reg := []
  /-- the first address stored to -/
  storeAt  : Nat := 0
  /-- how many bytes are stored, from `storeAt` upward -/
  storeLen : Nat := 0
  i        : Bool := false
  pc       : Bool := false
  stack    : Bool := false
  dt       : Bool := false
  st       : Bool := false
  fb       : Bool := false
  dirty    : Bool := false
  fault    : Bool := false
  deriving DecidableEq, Repr

/-- `t` is `s` but for what `c` names: every other register, every byte outside the stored ones, and
every other state element are as before, and so are the inputs. -/
def Frame (c : Changes) (s t : State) : Prop :=
  (∀ z : Reg, z ∉ c.regs → t.reg z = s.reg z) ∧
  (∀ a : Nat, a < c.storeAt ∨ c.storeAt + c.storeLen ≤ a → t.memByte a = s.memByte a) ∧
  (c.i = false → t.i = s.i) ∧
  (c.pc = false → t.pc = s.pc) ∧
  (c.stack = false → t.stack = s.stack) ∧
  (c.dt = false → t.dt = s.dt) ∧
  (c.st = false → t.st = s.st) ∧
  (c.fb = false → t.fb = s.fb) ∧
  (c.dirty = false → t.dirty = s.dirty) ∧
  (c.fault = false → t.fault = s.fault ∧ t.faultInfo = s.faultInfo) ∧
  t.inputs = s.inputs ∧ t.draws = s.draws

end Sys2Proof.Machine
end

