-- ==== Sys2Proof/Certificates/Slice0/Obligations.lean ====
section
/-! DEFINITION. The statements for the provers, each a formalisation of what the rules it cites say, and
the few terms they are stated in (namespace Sys2Proof.Claims). -/

open Sys2Proof Sys2Proof.Machine

namespace Sys2Proof.Claims

/-! ### Terms of the statements, written from the spec's tables -/

/-- The illegal words, by the numbers of R78's table. -/
abbrev Illegal (w : Word) : Prop :=
  (w.toNat / 4096 = 0x8 ∧ w.toNat % 16 ∈ [0x8, 0x9, 0xA, 0xB, 0xC, 0xD, 0xF]) ∨
  (w.toNat / 4096 = 0xE ∧ w.toNat % 256 ∉ [0x9E, 0xA1]) ∨
  (w.toNat / 4096 = 0xF ∧ w.toNat % 256 ∉ [0x07, 0x0A, 0x15, 0x18, 0x1E, 0x29, 0x33, 0x55, 0x65])

/-- `x = w[11:8]` by division (R8) -/
def xOf (w : Word) : Reg := BitVec.ofNat 4 (w.toNat / 256)
/-- `y = w[7:4]` by division (R8) -/
def yOf (w : Word) : Reg := BitVec.ofNat 4 (w.toNat / 16)
/-- `n = w[3:0]` (R8) -/
def nOf (w : Word) : Nibble := BitVec.ofNat 4 w.toNat
/-- `kk = w[7:0]` (R8) -/
def kkOf (w : Word) : Byte := BitVec.ofNat 8 w.toNat
/-- `nnn = w[11:0]` (R8) -/
def nnnOf (w : Word) : Addr := BitVec.ofNat 12 w.toNat

/-- What a fetch at PC would decode (R102, R104). -/
def decodedAtPc (s : State) : Decoded := decode [s.memByte s.pc.toNat, s.memByte (s.pc.toNat + 1)]

/-- The word at PC (R54). -/
def wordAtPc (s : State) : Word :=
  BitVec.ofNat 16 ((s.memByte s.pc.toNat).toNat * 256 + (s.memByte (s.pc.toNat + 1)).toNat)

/-- A step fetches and decodes `i` (R100 to R104). -/
def Fetches (s : State) (i : Instr) : Prop :=
  s.fault = none ∧ s.pc.toNat ≤ 0x0FFE ∧ decodedAtPc s = .instr i

/-- The range of `len` bytes from I lies within memory, or is empty (R61). -/
def InRange (s : State) (len : Nat) : Prop := len = 0 ∨ s.i.toNat + len - 1 ≤ 4095

/-- How many bytes from I an instruction touches (R51). -/
def touched : Instr → Nat
  | .drw _ _ n => n.toNat
  | .ldB _ => 3
  | .ldStore x => x.toNat + 1
  | .ldLoad x => x.toNat + 1
  | _ => 0

/-- The fault a step of a core that is not halted raises, and its information (R200). -/
def faultOf (s : State) : Option (FaultKind × Word) :=
  if 0x0FFE < s.pc.toNat then some (.memoryOutOfBounds, BitVec.ofNat 16 (max s.pc.toNat 0x1000))
  else if Illegal (wordAtPc s) then some (.invalidInstruction, wordAtPc s)
  else match decodedAtPc s with
    | .reject _ => none
    | .instr .ret => if s.stack = [] then some (.stackUnderflow, 0#16) else none
    | .instr (.call _) => if Config.stackDepth ≤ s.sp then some (.stackOverflow, 0#16) else none
    | .instr i =>
      if 0 < touched i ∧ 4095 < s.i.toNat + touched i - 1 then
        some (.memoryOutOfBounds, BitVec.ofNat 16 (max s.i.toNat 0x1000))
      else none

/-- `KEYS[k]` for the key number in the low nibble of Vx (R134) -/
def keyDown (s : State) (x : Reg) : Bool := s.keys.getLsbD ((s.reg x).toNat % 16)

/-- PC after a step that raises no fault, from the state before it (R25). -/
def pcAfter (s : State) : Instr → Word
  | .jp nnn => BitVec.ofNat 16 nnn.toNat
  | .call nnn => BitVec.ofNat 16 nnn.toNat
  | .ret => s.stack.headD 0#16
  | .jpV0 nnn => BitVec.ofNat 16 (nnn.toNat + (s.reg 0#4).toNat)
  | .seImm x kk => if s.reg x = kk then s.pc + 4#16 else s.pc + 2#16
  | .sneImm x kk => if s.reg x ≠ kk then s.pc + 4#16 else s.pc + 2#16
  | .seReg x y => if s.reg x = s.reg y then s.pc + 4#16 else s.pc + 2#16
  | .sneReg x y => if s.reg x ≠ s.reg y then s.pc + 4#16 else s.pc + 2#16
  | .skp x => if keyDown s x = true then s.pc + 4#16 else s.pc + 2#16
  | .sknp x => if keyDown s x = false then s.pc + 4#16 else s.pc + 2#16
  | .ldVxK _ => if s.keys = 0#16 then s.pc else s.pc + 2#16
  | _ => s.pc + 2#16

/-- One tick of a timer (R107). -/
def ticked (t : Byte) : Byte := BitVec.ofNat 8 (t.toNat - 1)

/-- The instructions that read KEYS (R37). -/
def readsKeys : Instr → Bool
  | .skp _ => true
  | .sknp _ => true
  | .ldVxK _ => true
  | _ => false

/-- The instruction that reads RNDBYTE (R38). -/
def readsRnd : Instr → Bool
  | .rnd _ _ => true
  | _ => false

/-- The six instructions that write VF as the flag register (R22). -/
def writesFlag : Instr → Bool
  | .addReg _ _ => true
  | .sub _ _ => true
  | .shr _ => true
  | .subn _ _ => true
  | .shl _ => true
  | .drw _ _ _ => true
  | _ => false

/-- The register, or the last register, an instruction without a flag writes through its `x` field. -/
def destination : Instr → Option Reg
  | .ldImm x _ => some x
  | .addImm x _ => some x
  | .ldReg x _ => some x
  | .orReg x _ => some x
  | .andReg x _ => some x
  | .xorReg x _ => some x
  | .rnd x _ => some x
  | .ldVxDT x => some x
  | .ldVxK x => some x
  | .ldLoad x => some x
  | _ => none

/-- The registers `V[0] .. V[x]` (R165). -/
def regsUpTo (x : Reg) : List Reg := (List.range (x.toNat + 1)).map (fun k => BitVec.ofNat 4 k)

/-- What the rule of each instruction names as changed (R120 to R183); the fault of R121, R123 and R61
may take the place of the rest. -/
def changes (s : State) : Instr → Changes
  | .cls => { fb := true, dirty := true }
  | .ret => { pc := true, stack := true, fault := true }
  | .sys _ => {}
  | .jp _ => { pc := true }
  | .call _ => { pc := true, stack := true, fault := true }
  | .seImm _ _ => { pc := true }
  | .sneImm _ _ => { pc := true }
  | .seReg _ _ => { pc := true }
  | .ldImm x _ => { regs := [x] }
  | .addImm x _ => { regs := [x] }
  | .ldReg x _ => { regs := [x] }
  | .orReg x _ => { regs := [x] }
  | .andReg x _ => { regs := [x] }
  | .xorReg x _ => { regs := [x] }
  | .addReg x _ => { regs := [x, Reg.vf] }
  | .sub x _ => { regs := [x, Reg.vf] }
  | .shr x => { regs := [x, Reg.vf] }
  | .subn x _ => { regs := [x, Reg.vf] }
  | .shl x => { regs := [x, Reg.vf] }
  | .sneReg _ _ => { pc := true }
  | .ldI _ => { i := true }
  | .jpV0 _ => { pc := true }
  | .rnd x _ => { regs := [x] }
  | .drw _ _ _ => { regs := [Reg.vf], fb := true, dirty := true, fault := true }
  | .skp _ => { pc := true }
  | .sknp _ => { pc := true }
  | .ldVxDT x => { regs := [x] }
  | .ldVxK x => { regs := [x], pc := true }
  | .ldDTVx _ => { dt := true }
  | .ldSTVx _ => { st := true }
  | .addI _ => { i := true }
  | .ldF _ => { i := true }
  | .ldB _ => { storeAt := s.i.toNat, storeLen := 3, fault := true }
  | .ldStore x => { storeAt := s.i.toNat, storeLen := x.toNat + 1, fault := true }
  | .ldLoad x => { regs := regsUpTo x, fault := true }

/-- The state a range from I that passes 4095 leaves: FAULT and FAULT_INFO, nothing else (R61, R204). -/
def outOfBounds (s : State) : State :=
  { s with fault := some .memoryOutOfBounds, faultInfo := BitVec.ofNat 16 (max s.i.toNat 4096) }

/-- The bit the sprite of `n` rows at I draws on pixel (`r`, `c`), its origin `(vx mod 64, vy mod 32)`;
a pixel outside the sprite gets 0, and a sprite bit outside the frame is on no pixel (R171). -/
def spriteBit (s : State) (vx vy : Byte) (n : Nibble) (r c : Nat) : Bool :=
  decide (vy.toNat % 32 ≤ r ∧ r < vy.toNat % 32 + n.toNat ∧
    vx.toNat % 64 ≤ c ∧ c < vx.toNat % 64 + 8) &&
  (s.memByte (s.i.toNat + (r - vy.toNat % 32))).getLsbD (7 - (c - vx.toNat % 64))

/-- The element-by-element state of R42, from a core that has just been reset. -/
def AtReset (t : State) : Prop :=
  (∀ k, k < 80 → t.memByte (Config.fontBase + k) = Config.font.getD k 0#8) ∧
  (∀ a, a < 4096 → a < Config.fontBase ∨ Config.fontBase + 80 ≤ a → t.memByte a = 0#8) ∧
  (∀ x : Reg, t.reg x = 0#8) ∧
  t.i = 0#16 ∧ t.pc = 0x0200#16 ∧ t.sp = 0 ∧ t.dt = 0#8 ∧ t.st = 0#8 ∧
  (∀ r c, r < 32 → c < 64 → t.pixel r c = false) ∧
  t.dirty = false ∧ t.fault = none ∧ t.faultInfo = 0#16

end Sys2Proof.Claims

open Sys2Proof.Claims

/-! ### Encoding -/

/-- Decoding the encoding of a well-formed instruction gives it back, whatever bytes follow
(R70, R76, R84). -/
def Obligations.DecodeOfEncode : Prop :=
  ∀ (i : Instr) (rest : List Byte), i.wellFormed = true → decode (encode i ++ rest) = .instr i

/-- A word that decodes to `i` is the encoding of `i` but for the ignored bits, and `i` is well formed
(R76, R77). -/
def Obligations.EncodeOfDecodeClearsIgnoredBits : Prop :=
  ∀ (w : Word) (i : Instr), decodeWord w = .instr i →
    i.wellFormed = true ∧ encodeWord i = w &&& ~~~ignoredBits i

/-- The 35 rows of the opcode map: a word that meets a row's mask and match decodes to the row's
instruction with the fields of R8 (R76). -/
def Obligations.OpcodeMapRowsDecode : Prop :=
  ∀ w : Word,
    (w &&& 0xF000#16 = 0x0000#16 → w.toNat % 256 ≠ 0xE0 → w.toNat % 256 ≠ 0xEE →
      decodeWord w = .instr (.sys (nnnOf w))) ∧
    (w &&& 0xF0FF#16 = 0x00E0#16 → decodeWord w = .instr .cls) ∧
    (w &&& 0xF0FF#16 = 0x00EE#16 → decodeWord w = .instr .ret) ∧
    (w &&& 0xF000#16 = 0x1000#16 → decodeWord w = .instr (.jp (nnnOf w))) ∧
    (w &&& 0xF000#16 = 0x2000#16 → decodeWord w = .instr (.call (nnnOf w))) ∧
    (w &&& 0xF000#16 = 0x3000#16 → decodeWord w = .instr (.seImm (xOf w) (kkOf w))) ∧
    (w &&& 0xF000#16 = 0x4000#16 → decodeWord w = .instr (.sneImm (xOf w) (kkOf w))) ∧
    (w &&& 0xF000#16 = 0x5000#16 → decodeWord w = .instr (.seReg (xOf w) (yOf w))) ∧
    (w &&& 0xF000#16 = 0x6000#16 → decodeWord w = .instr (.ldImm (xOf w) (kkOf w))) ∧
    (w &&& 0xF000#16 = 0x7000#16 → decodeWord w = .instr (.addImm (xOf w) (kkOf w))) ∧
    (w &&& 0xF00F#16 = 0x8000#16 → decodeWord w = .instr (.ldReg (xOf w) (yOf w))) ∧
    (w &&& 0xF00F#16 = 0x8001#16 → decodeWord w = .instr (.orReg (xOf w) (yOf w))) ∧
    (w &&& 0xF00F#16 = 0x8002#16 → decodeWord w = .instr (.andReg (xOf w) (yOf w))) ∧
    (w &&& 0xF00F#16 = 0x8003#16 → decodeWord w = .instr (.xorReg (xOf w) (yOf w))) ∧
    (w &&& 0xF00F#16 = 0x8004#16 → decodeWord w = .instr (.addReg (xOf w) (yOf w))) ∧
    (w &&& 0xF00F#16 = 0x8005#16 → decodeWord w = .instr (.sub (xOf w) (yOf w))) ∧
    (w &&& 0xF00F#16 = 0x8006#16 → decodeWord w = .instr (.shr (xOf w))) ∧
    (w &&& 0xF00F#16 = 0x8007#16 → decodeWord w = .instr (.subn (xOf w) (yOf w))) ∧
    (w &&& 0xF00F#16 = 0x800E#16 → decodeWord w = .instr (.shl (xOf w))) ∧
    (w &&& 0xF000#16 = 0x9000#16 → decodeWord w = .instr (.sneReg (xOf w) (yOf w))) ∧
    (w &&& 0xF000#16 = 0xA000#16 → decodeWord w = .instr (.ldI (nnnOf w))) ∧
    (w &&& 0xF000#16 = 0xB000#16 → decodeWord w = .instr (.jpV0 (nnnOf w))) ∧
    (w &&& 0xF000#16 = 0xC000#16 → decodeWord w = .instr (.rnd (xOf w) (kkOf w))) ∧
    (w &&& 0xF000#16 = 0xD000#16 → decodeWord w = .instr (.drw (xOf w) (yOf w) (nOf w))) ∧
    (w &&& 0xF0FF#16 = 0xE09E#16 → decodeWord w = .instr (.skp (xOf w))) ∧
    (w &&& 0xF0FF#16 = 0xE0A1#16 → decodeWord w = .instr (.sknp (xOf w))) ∧
    (w &&& 0xF0FF#16 = 0xF007#16 → decodeWord w = .instr (.ldVxDT (xOf w))) ∧
    (w &&& 0xF0FF#16 = 0xF00A#16 → decodeWord w = .instr (.ldVxK (xOf w))) ∧
    (w &&& 0xF0FF#16 = 0xF015#16 → decodeWord w = .instr (.ldDTVx (xOf w))) ∧
    (w &&& 0xF0FF#16 = 0xF018#16 → decodeWord w = .instr (.ldSTVx (xOf w))) ∧
    (w &&& 0xF0FF#16 = 0xF01E#16 → decodeWord w = .instr (.addI (xOf w))) ∧
    (w &&& 0xF0FF#16 = 0xF029#16 → decodeWord w = .instr (.ldF (xOf w))) ∧
    (w &&& 0xF0FF#16 = 0xF033#16 → decodeWord w = .instr (.ldB (xOf w))) ∧
    (w &&& 0xF0FF#16 = 0xF055#16 → decodeWord w = .instr (.ldStore (xOf w))) ∧
    (w &&& 0xF0FF#16 = 0xF065#16 → decodeWord w = .instr (.ldLoad (xOf w)))

/-- The decoder rejects exactly the illegal words of R78's table, each with the word itself, and every
other word is an instruction (R78, R83). -/
def Obligations.IllegalWordsAreExactlyTheRejected : Prop :=
  ∀ w : Word,
    (Illegal w → decodeWord w = .reject (.invalidInstruction w)) ∧
    (¬ Illegal w → ∃ i, decodeWord w = .instr i)

/-- Two words spell the same instruction iff they agree outside its ignored bits, and the operand of SYS
has no effect (R77). That two SYS words with different operands are two terms of Instr, so that
`ignoredBits` of SYS is 0, is the model's choice (log entry 14): for R77 all of it is ignored. -/
def Obligations.IgnoredFieldsHaveNoEffect : Prop :=
  (∀ (w w' : Word) (i : Instr), decodeWord w = .instr i →
    (decodeWord w' = .instr i ↔ w' &&& ~~~ignoredBits i = w &&& ~~~ignoredBits i)) ∧
  (∀ (a b : Addr) (s : State), exec (.sys a) s = exec (.sys b) s)

/-- The canonical words of the opcode map, with zeros in the ignored fields, stored high byte first, and
R84's examples (R76, R84). -/
def Obligations.CanonicalWordsAreThoseOfTheMap : Prop :=
  ∀ (x y : Reg) (n : Nibble) (kk : Byte) (nnn : Addr) (i : Instr),
  (encodeWord .cls).toNat = 0x00E0 ∧
  (encodeWord .ret).toNat = 0x00EE ∧
  (encodeWord (.sys nnn)).toNat = 0x0000 + nnn.toNat ∧
  (encodeWord (.jp nnn)).toNat = 0x1000 + nnn.toNat ∧
  (encodeWord (.call nnn)).toNat = 0x2000 + nnn.toNat ∧
  (encodeWord (.seImm x kk)).toNat = 0x3000 + x.toNat * 256 + kk.toNat ∧
  (encodeWord (.sneImm x kk)).toNat = 0x4000 + x.toNat * 256 + kk.toNat ∧
  (encodeWord (.seReg x y)).toNat = 0x5000 + x.toNat * 256 + y.toNat * 16 ∧
  (encodeWord (.ldImm x kk)).toNat = 0x6000 + x.toNat * 256 + kk.toNat ∧
  (encodeWord (.addImm x kk)).toNat = 0x7000 + x.toNat * 256 + kk.toNat ∧
  (encodeWord (.ldReg x y)).toNat = 0x8000 + x.toNat * 256 + y.toNat * 16 ∧
  (encodeWord (.orReg x y)).toNat = 0x8001 + x.toNat * 256 + y.toNat * 16 ∧
  (encodeWord (.andReg x y)).toNat = 0x8002 + x.toNat * 256 + y.toNat * 16 ∧
  (encodeWord (.xorReg x y)).toNat = 0x8003 + x.toNat * 256 + y.toNat * 16 ∧
  (encodeWord (.addReg x y)).toNat = 0x8004 + x.toNat * 256 + y.toNat * 16 ∧
  (encodeWord (.sub x y)).toNat = 0x8005 + x.toNat * 256 + y.toNat * 16 ∧
  (encodeWord (.shr x)).toNat = 0x8006 + x.toNat * 256 ∧
  (encodeWord (.subn x y)).toNat = 0x8007 + x.toNat * 256 + y.toNat * 16 ∧
  (encodeWord (.shl x)).toNat = 0x800E + x.toNat * 256 ∧
  (encodeWord (.sneReg x y)).toNat = 0x9000 + x.toNat * 256 + y.toNat * 16 ∧
  (encodeWord (.ldI nnn)).toNat = 0xA000 + nnn.toNat ∧
  (encodeWord (.jpV0 nnn)).toNat = 0xB000 + nnn.toNat ∧
  (encodeWord (.rnd x kk)).toNat = 0xC000 + x.toNat * 256 + kk.toNat ∧
  (encodeWord (.drw x y n)).toNat = 0xD000 + x.toNat * 256 + y.toNat * 16 + n.toNat ∧
  (encodeWord (.skp x)).toNat = 0xE09E + x.toNat * 256 ∧
  (encodeWord (.sknp x)).toNat = 0xE0A1 + x.toNat * 256 ∧
  (encodeWord (.ldVxDT x)).toNat = 0xF007 + x.toNat * 256 ∧
  (encodeWord (.ldVxK x)).toNat = 0xF00A + x.toNat * 256 ∧
  (encodeWord (.ldDTVx x)).toNat = 0xF015 + x.toNat * 256 ∧
  (encodeWord (.ldSTVx x)).toNat = 0xF018 + x.toNat * 256 ∧
  (encodeWord (.addI x)).toNat = 0xF01E + x.toNat * 256 ∧
  (encodeWord (.ldF x)).toNat = 0xF029 + x.toNat * 256 ∧
  (encodeWord (.ldB x)).toNat = 0xF033 + x.toNat * 256 ∧
  (encodeWord (.ldStore x)).toNat = 0xF055 + x.toNat * 256 ∧
  (encodeWord (.ldLoad x)).toNat = 0xF065 + x.toNat * 256 ∧
  encode i = [BitVec.ofNat 8 ((encodeWord i).toNat / 256), BitVec.ofNat 8 (encodeWord i).toNat] ∧
  encode (.ldImm 0#4 5#8) = [0x60#8, 0x05#8] ∧
  encode (.drw 1#4 2#4 5#4) = [0xD1#8, 0x25#8] ∧
  encode (.jp 0x204#12) = [0x12#8, 0x04#8]

/-- Words written out from the spec's examples decode to the instructions they stand for: one or more of
each family (95_test_vectors.md parts 2 and 3). -/
def Obligations.WordsOfTheSpecDecode : Prop :=
  decode [0x60#8, 0x05#8] = .instr (.ldImm 0#4 5#8) ∧
  decode [0x01#8, 0xE0#8] = .instr .cls ∧
  decode [0x00#8, 0xEE#8] = .instr .ret ∧
  decode [0x12#8, 0x04#8] = .instr (.jp 0x204#12) ∧
  decode [0x51#8, 0x27#8] = .instr (.seReg 1#4 2#4) ∧
  decode [0x83#8, 0x46#8] = .instr (.shr 3#4) ∧
  decode [0xD1#8, 0x25#8] = .instr (.drw 1#4 2#4 5#4) ∧
  decode [0xF2#8, 0x65#8] = .instr (.ldLoad 2#4) ∧
  decode [0xF2#8, 0x0A#8] = .instr (.ldVxK 2#4) ∧
  decode [0x81#8, 0x28#8] = .reject (.invalidInstruction 0x8128#16)

/-! ### Reset and memory -/

/-- After reset, of a machine in any state, every state element has the value of R42's table. -/
def Obligations.ResetGivesTheTableOfResetValues : Prop :=
  AtReset State.reset ∧ ∀ s : State, AtReset s.hostReset

/-- Two memories in the canonical form that read alike at every address are the same data. The canonical
form is the model's (log entry 10). -/
def Obligations.CanonicalMemoriesThatReadAlikeAreEqual : Prop :=
  ∀ m m' : Memory, m.wf → m'.wf → (∀ a, m.get a = m'.get a) → m = m'

/-! ### The step -/

/-- When the bytes at PC decode to an instruction, a step is its Execute on the state with PC advanced
by 2, followed by the end of the step (R100, R103, R105). -/
def Obligations.StepRunsTheDecodedInstruction : Prop :=
  ∀ (s : State) (i : Instr), Fetches s i →
    step s = match exec i (s.setPc (s.pc + 2#16)) with
      | .next t => .next t.endStep
      | .fault r => .fault r
      | .refused r => .refused r

/-- A halted core's step changes nothing, and no move of the host but reset clears FAULT (R101). -/
def Obligations.HaltedCoreStaysUntilReset : Prop :=
  (∀ s : State, s.fault ≠ none → step s = .next s) ∧
  (∀ (h h' : Session) (m : HostMove), h.core.fault ≠ none → m ≠ .reset → h.move m = .next h' →
    h'.core.fault = h.core.fault) ∧
  (∀ h h' : Session, h.move .reset = .next h' → h'.core.fault = none)

/-- Fetch: the two bytes at PC, big-endian, where PC is at most 0x0FFE; above it the step raises
MemoryOutOfBounds with the lowest out-of-range address and leaves PC and everything else as it was
(R102). The fields `inputs` and
`draws` are the model's own, and that they advance is its choice (log entry 2). -/
def Obligations.FetchReadsTwoBytesOrFaults : Prop :=
  (∀ s : State, s.pc.toNat ≤ 0x0FFE →
    s.fetch = .bytes (s.memByte s.pc.toNat) (s.memByte (s.pc.toNat + 1)) ∧
    (wordOfBytes (s.memByte s.pc.toNat) (s.memByte (s.pc.toNat + 1))).toNat =
      (s.memByte s.pc.toNat).toNat * 256 + (s.memByte (s.pc.toNat + 1)).toNat) ∧
  (∀ s : State, s.fault = none → 0x0FFE < s.pc.toNat →
    step s = .next { s with
      fault := some .memoryOutOfBounds
      faultInfo := if 0x0FFF < s.pc.toNat then s.pc else s.pc + 1#16
      inputs := s.inputs.tail
      draws := s.draws + 1 })

/-- An illegal word at PC: the core halts with InvalidInstruction and the word, PC advanced by 2, no
timer tick, everything else as before the step; and no other word raises that fault (R201). The fields `inputs` and
`draws` are the model's own, and that they advance is its choice (log entry 2). -/
def Obligations.IllegalWordHaltsTheCore : Prop :=
  (∀ s : State, s.fault = none → s.pc.toNat ≤ 0x0FFE → Illegal (wordAtPc s) →
    step s = .next { s with
      pc := s.pc + 2#16
      fault := some .invalidInstruction
      faultInfo := wordAtPc s
      inputs := s.inputs.tail
      draws := s.draws + 1 }) ∧
  (∀ s t : State, s.fault = none → step s = .next t → t.fault = some .invalidInstruction →
    s.pc.toNat ≤ 0x0FFE ∧ Illegal (wordAtPc s))

/-- In every step that raises no fault each timer above 0 goes down by 1, whatever the instruction, after
the load in the step that loads it (R107). -/
def Obligations.TimersTickOncePerStep : Prop :=
  ∀ (s t : State) (i : Instr), Fetches s i → step s = .next t → t.fault = none →
    t.dt = (match i with | .ldDTVx x => ticked (s.reg x) | _ => ticked s.dt) ∧
    t.st = (match i with | .ldSTVx x => ticked (s.reg x) | _ => ticked s.st)

/-- A step answers a next state from every state, with or without a fault: the hardware's step is total
and the model never stops in it (R100, R111). -/
def Obligations.StepAlwaysAnswersANextState : Prop :=
  ∀ s : State, ∃ t, step s = .next t

/-- A step that faults leaves the state before it with PC advanced by 2, unless the fault was raised in
Fetch, and FAULT and FAULT_INFO set: no partial effect and no timer tick (R110). The fields `inputs` and
`draws` are the model's own, and that they advance is its choice (log entry 2). -/
def Obligations.FaultingStepHasNoOtherEffect : Prop :=
  ∀ s t : State, s.fault = none → step s = .next t → t.fault ≠ none →
    t = { s with
      pc := if 0x0FFE < s.pc.toNat then s.pc else s.pc + 2#16
      fault := t.fault
      faultInfo := t.faultInfo
      inputs := s.inputs.tail
      draws := s.draws + 1 }

/-- A step raises exactly the fault of R200's table, with its information and its code, and no other.
That a stack deeper than STACK_DEPTH, which no run reaches, counts as full is the model's choice (log
entry 6): R200 speaks of SP = STACK_DEPTH. -/
def Obligations.FaultsAreExactlyThoseOfTheTable : Prop :=
  (∀ s t : State, s.fault = none → step s = .next t →
    match faultOf s with
    | none => t.fault = none ∧ t.faultInfo = s.faultInfo
    | some (k, info) => t.fault = some k ∧ t.faultInfo = info) ∧
  (∀ s : State, s.faultCode.toNat =
    match s.fault with
    | none => 0
    | some .invalidInstruction => 1
    | some .stackUnderflow => 2
    | some .stackOverflow => 3
    | some .memoryOutOfBounds => 4)

/-- PC after a step, for every instruction and for the faults (R25). -/
def Obligations.PcAfterAStepIsTheTables : Prop :=
  (∀ (s t : State) (i : Instr), Fetches s i → step s = .next t → t.fault = none →
    t.pc = pcAfter s i) ∧
  (∀ s t : State, s.fault = none → s.pc.toNat ≤ 0x0FFE → step s = .next t → t.fault ≠ none →
    t.pc = s.pc + 2#16) ∧
  (∀ s t : State, s.fault = none → 0x0FFE < s.pc.toNat → step s = .next t → t.pc = s.pc)

/-- Every Operation changes only the elements its rule names, and depends on KEYS only in SKP, SKNP and
LD Vx,K and on RNDBYTE only in RND (R105). -/
def Obligations.ExecuteChangesAndReadsOnlyWhatItsRuleNames : Prop :=
  (∀ (i : Instr) (s t : State), exec i s = .next t → Frame (changes s i) s t) ∧
  (∀ (i : Instr) (s t : State) (ins : List StepInput) (n : Nat),
    (readsKeys i = true → ({ s with inputs := ins, draws := n } : State).keys = s.keys) →
    (readsRnd i = true → ({ s with inputs := ins, draws := n } : State).rnd = s.rnd) →
    exec i s = .next t →
    exec i { s with inputs := ins, draws := n } = .next { t with inputs := ins, draws := n })

/-- VF changes only in the six flag writers of R22, and otherwise only where an instruction writes its
destination register and that is VF (R22, R241). -/
def Obligations.VfChangesOnlyWhereTheRulesSay : Prop :=
  ∀ (i : Instr) (s t : State), exec i s = .next t → t.reg Reg.vf ≠ s.reg Reg.vf →
    writesFlag i = true ∨ destination i = some Reg.vf

/-! ### Invariants -/

/-- The machine right after reset meets the invariant. -/
def Obligations.ResetMeetsTheInvariant : Prop :=
  State.reset.Inv ∧ ∀ s : State, s.hostReset.Inv

/-- Every step keeps the invariant: the memory's canonical form, PC at most 0x10FE, at most STACK_DEPTH
return addresses of at most 0x1000, and fault registers that agree (R26, R28, R36, R200). -/
def Obligations.EveryStepKeepsTheInvariant : Prop :=
  ∀ s t : State, s.Inv → step s = .next t → t.Inv

/-- Every state that any sequence of the host's moves brings about, with any program, any inputs and any
flushes, meets the invariant (R26, R216, R237). The canonical form of memory in it is the model's (log
entry 10). -/
def Obligations.EveryReachableSessionMeetsTheInvariant : Prop :=
  ∀ h : Session, h.Reachable → h.core.Inv

/-- Every move of the host keeps the invariant, from any session whose core meets it: a reset, a load of
any program, a step with any inputs, a flush acknowledge (R26, R216). The canonical form of memory in it is
the model's (log entry 10). -/
def Obligations.EveryMoveOfTheHostKeepsTheInvariant : Prop :=
  ∀ (h h' : Session) (m : HostMove), h.core.Inv → h.move m = .next h' → h'.core.Inv

/-! ### Control transfer -/

/-- SYS does nothing (R120). -/
def Obligations.SysDoesNothing : Prop :=
  ∀ (nnn : Addr) (s : State), exec (.sys nnn) s = .next s

/-- RET pops the newest entry into PC, or raises StackUnderflow on an empty stack (R121, R202). -/
def Obligations.RetPopsIntoPcOrUnderflows : Prop :=
  (∀ (s : State) (w : Word) (rest : List Word), s.stack = w :: rest →
    ∃ t, exec .ret s = .next t ∧ t.pc = w ∧ t.stack = rest ∧
      Frame { pc := true, stack := true } s t) ∧
  (∀ s : State, s.stack = [] →
    exec .ret s = .next { s with fault := some .stackUnderflow, faultInfo := 0#16 })

/-- JP sets PC to nnn, and JP V0 to nnn + V0 with no masking (R122, R124). -/
def Obligations.JumpsSetPc : Prop :=
  (∀ (nnn : Addr) (s : State), ∃ t, exec (.jp nnn) s = .next t ∧ t.pc.toNat = nnn.toNat ∧
    Frame { pc := true } s t) ∧
  (∀ (nnn : Addr) (s : State), ∃ t, exec (.jpV0 nnn) s = .next t ∧
    t.pc.toNat = nnn.toNat + (s.reg 0#4).toNat ∧ Frame { pc := true } s t)

/-- CALL pushes PC and jumps, or raises StackOverflow on a full stack (R123, R203). That a stack deeper
than STACK_DEPTH, which no run reaches, counts as full is the model's choice (log entry 6): R123 speaks of
SP = STACK_DEPTH. -/
def Obligations.CallPushesPcOrOverflows : Prop :=
  (∀ (nnn : Addr) (s : State), s.sp < Config.stackDepth →
    ∃ t, exec (.call nnn) s = .next t ∧ t.pc.toNat = nnn.toNat ∧ t.stack = s.pc :: s.stack ∧
      Frame { pc := true, stack := true } s t) ∧
  (∀ (nnn : Addr) (s : State), Config.stackDepth ≤ s.sp →
    exec (.call nnn) s = .next { s with fault := some .stackOverflow, faultInfo := 0#16 })

/-- A RET after a CALL, whatever the callee did that leaves the stack as the CALL left it, goes to the
instruction after the CALL and leaves the stack as it was before it, at the level of steps
(R121, R123; 90_conflicts.md C6). -/
def Obligations.ReturnComesBackAfterTheCall : Prop :=
  ∀ (s t u v : State) (nnn : Addr), Fetches s (.call nnn) → s.sp < Config.stackDepth →
    step s = .next t → u.stack = t.stack → Fetches u .ret → step u = .next v →
    t.fault = none ∧ t.pc.toNat = nnn.toNat ∧
    v.fault = none ∧ v.pc = s.pc + 2#16 ∧ v.stack = s.stack

/-! ### Skips -/

/-- The four comparing skips: PC + 2 iff the condition holds, and nothing else
(R130, R131, R132, R133). -/
def Obligations.ComparingSkips : Prop :=
  (∀ (x : Reg) (kk : Byte) (s : State), ∃ t, exec (.seImm x kk) s = .next t ∧
    t.pc = (if s.reg x = kk then s.pc + 2#16 else s.pc) ∧ Frame { pc := true } s t) ∧
  (∀ (x : Reg) (kk : Byte) (s : State), ∃ t, exec (.sneImm x kk) s = .next t ∧
    t.pc = (if s.reg x ≠ kk then s.pc + 2#16 else s.pc) ∧ Frame { pc := true } s t) ∧
  (∀ (x y : Reg) (s : State), ∃ t, exec (.seReg x y) s = .next t ∧
    t.pc = (if s.reg x = s.reg y then s.pc + 2#16 else s.pc) ∧ Frame { pc := true } s t) ∧
  (∀ (x y : Reg) (s : State), ∃ t, exec (.sneReg x y) s = .next t ∧
    t.pc = (if s.reg x ≠ s.reg y then s.pc + 2#16 else s.pc) ∧ Frame { pc := true } s t)

/-- SKP and SKNP test the key whose number is the low nibble of Vx (R134, R135). -/
def Obligations.KeySkipsTestTheLowNibblesKey : Prop :=
  (∀ (x : Reg) (s : State), ∃ t, exec (.skp x) s = .next t ∧
    t.pc = (if s.keys.getLsbD ((s.reg x).toNat % 16) = true then s.pc + 2#16 else s.pc) ∧
    Frame { pc := true } s t) ∧
  (∀ (x : Reg) (s : State), ∃ t, exec (.sknp x) s = .next t ∧
    t.pc = (if s.keys.getLsbD ((s.reg x).toNat % 16) = false then s.pc + 2#16 else s.pc) ∧
    Frame { pc := true } s t)

/-! ### Register load, arithmetic, logic, shifts, random -/

/-- LD Vx,kk and LD Vx,Vy (R140, R142). -/
def Obligations.RegisterLoads : Prop :=
  (∀ (x : Reg) (kk : Byte) (s : State), ∃ t, exec (.ldImm x kk) s = .next t ∧ t.reg x = kk ∧
    Frame { regs := [x] } s t) ∧
  (∀ (x y : Reg) (s : State), ∃ t, exec (.ldReg x y) s = .next t ∧ t.reg x = s.reg y ∧
    Frame { regs := [x] } s t)

/-- ADD Vx,kk adds modulo 256 and never writes VF as a flag (R141). -/
def Obligations.AddImmediateSetsNoFlag : Prop :=
  ∀ (x : Reg) (kk : Byte) (s : State), ∃ t, exec (.addImm x kk) s = .next t ∧
    (t.reg x).toNat = ((s.reg x).toNat + kk.toNat) % 256 ∧
    (x ≠ Reg.vf → t.reg Reg.vf = s.reg Reg.vf) ∧
    Frame { regs := [x] } s t

/-- OR, AND and XOR, bit by bit, with VF unchanged unless it is Vx (R143, R144, R145). -/
def Obligations.LogicLeavesVfAlone : Prop :=
  ∀ (x y : Reg) (s : State),
    (∃ t, exec (.orReg x y) s = .next t ∧
      (∀ k, k < 8 → (t.reg x).getLsbD k = ((s.reg x).getLsbD k || (s.reg y).getLsbD k)) ∧
      Frame { regs := [x] } s t) ∧
    (∃ t, exec (.andReg x y) s = .next t ∧
      (∀ k, k < 8 → (t.reg x).getLsbD k = ((s.reg x).getLsbD k && (s.reg y).getLsbD k)) ∧
      Frame { regs := [x] } s t) ∧
    (∃ t, exec (.xorReg x y) s = .next t ∧
      (∀ k, k < 8 → (t.reg x).getLsbD k = ((s.reg x).getLsbD k ^^ (s.reg y).getLsbD k)) ∧
      Frame { regs := [x] } s t)

/-- ADD Vx,Vy: the sum modulo 256, and VF the carry unless Vx is VF; operands are latched, so Vy = VF is
the old VF (R146). -/
def Obligations.AddRegisterSumAndCarry : Prop :=
  ∀ (x y : Reg) (s : State), ∃ t, exec (.addReg x y) s = .next t ∧
    (t.reg x).toNat = ((s.reg x).toNat + (s.reg y).toNat) % 256 ∧
    (x ≠ Reg.vf →
      (t.reg Reg.vf).toNat = if 255 < (s.reg x).toNat + (s.reg y).toNat then 1 else 0) ∧
    Frame { regs := [x, Reg.vf] } s t

/-- SUB and SUBN: the difference modulo 256, and VF 1 iff the minuend is strictly greater, unless Vx is
VF (R147, R149). -/
def Obligations.SubtractionsAndStrictFlag : Prop :=
  (∀ (x y : Reg) (s : State), ∃ t, exec (.sub x y) s = .next t ∧
    (t.reg x).toNat = ((s.reg x).toNat + 256 - (s.reg y).toNat) % 256 ∧
    (x ≠ Reg.vf → (t.reg Reg.vf).toNat = if (s.reg y).toNat < (s.reg x).toNat then 1 else 0) ∧
    Frame { regs := [x, Reg.vf] } s t) ∧
  (∀ (x y : Reg) (s : State), ∃ t, exec (.subn x y) s = .next t ∧
    (t.reg x).toNat = ((s.reg y).toNat + 256 - (s.reg x).toNat) % 256 ∧
    (x ≠ Reg.vf → (t.reg Reg.vf).toNat = if (s.reg x).toNat < (s.reg y).toNat then 1 else 0) ∧
    Frame { regs := [x, Reg.vf] } s t)

/-- SHR and SHL shift Vx by one, with the bit shifted out in VF unless Vx is VF (R148, R150). -/
def Obligations.ShiftsByOneAndLostBit : Prop :=
  (∀ (x : Reg) (s : State), ∃ t, exec (.shr x) s = .next t ∧
    (t.reg x).toNat = (s.reg x).toNat / 2 ∧
    (x ≠ Reg.vf → (t.reg Reg.vf).toNat = (s.reg x).toNat % 2) ∧
    Frame { regs := [x, Reg.vf] } s t) ∧
  (∀ (x : Reg) (s : State), ∃ t, exec (.shl x) s = .next t ∧
    (t.reg x).toNat = (s.reg x).toNat * 2 % 256 ∧
    (x ≠ Reg.vf → (t.reg Reg.vf).toNat = (s.reg x).toNat / 128) ∧
    Frame { regs := [x, Reg.vf] } s t)

/-- RND: the step's RNDBYTE masked by kk, so that every bit clear in kk is clear in Vx (R151). The byte
is any byte: the statement holds for every value of it. -/
def Obligations.RandomIsMaskedByKk : Prop :=
  ∀ (x : Reg) (kk : Byte) (s : State), ∃ t, exec (.rnd x kk) s = .next t ∧
    (∀ k, k < 8 → (t.reg x).getLsbD k = (s.rnd.getLsbD k && kk.getLsbD k)) ∧
    t.reg x &&& ~~~kk = 0#8 ∧
    Frame { regs := [x] } s t

/-! ### The index register and memory -/

/-- LD I, ADD I and LD F write I and nothing else; no flag, no masking (R160, R161, R162). -/
def Obligations.IndexRegisterWrites : Prop :=
  (∀ (nnn : Addr) (s : State), ∃ t, exec (.ldI nnn) s = .next t ∧ t.i.toNat = nnn.toNat ∧
    Frame { i := true } s t) ∧
  (∀ (x : Reg) (s : State), ∃ t, exec (.addI x) s = .next t ∧
    t.i.toNat = (s.i.toNat + (s.reg x).toNat) % 65536 ∧ Frame { i := true } s t) ∧
  (∀ (x : Reg) (s : State), ∃ t, exec (.ldF x) s = .next t ∧
    t.i.toNat = (Config.fontBase + 5 * (s.reg x).toNat) % 65536 ∧ Frame { i := true } s t)

/-- LD B stores the three decimal digits of Vx at I, I+1, I+2, hundreds first: digits whose number is Vx;
where I + 2 passes 4095 it raises MemoryOutOfBounds and writes nothing (R163). -/
def Obligations.BcdStoresTheDecimalDigits : Prop :=
  (∀ (x : Reg) (s : State), 4095 < s.i.toNat + 2 → exec (.ldB x) s = .next (outOfBounds s)) ∧
  ∀ (x : Reg) (s : State), s.i.toNat + 2 ≤ 4095 →
    ∃ t, exec (.ldB x) s = .next t ∧
      (t.memByte s.i.toNat).toNat = (s.reg x).toNat / 100 ∧
      (t.memByte (s.i.toNat + 1)).toNat = (s.reg x).toNat / 10 % 10 ∧
      (t.memByte (s.i.toNat + 2)).toNat = (s.reg x).toNat % 10 ∧
      (t.memByte s.i.toNat).toNat * 100 + (t.memByte (s.i.toNat + 1)).toNat * 10 +
        (t.memByte (s.i.toNat + 2)).toNat = (s.reg x).toNat ∧
      Frame { storeAt := s.i.toNat, storeLen := 3 } s t

/-- LD [I],Vx stores V0 .. Vx at I .. I+x and changes nothing else, I included; where I + x passes 4095
it raises MemoryOutOfBounds and writes nothing (R164). -/
def Obligations.BlockStoreWritesTheRegisters : Prop :=
  (∀ (x : Reg) (s : State), 4095 < s.i.toNat + x.toNat → exec (.ldStore x) s = .next (outOfBounds s)) ∧
  ∀ (x : Reg) (s : State), s.i.toNat + x.toNat ≤ 4095 →
    ∃ t, exec (.ldStore x) s = .next t ∧
      (∀ z : Reg, z.toNat ≤ x.toNat → t.memByte (s.i.toNat + z.toNat) = s.reg z) ∧
      Frame { storeAt := s.i.toNat, storeLen := x.toNat + 1 } s t

/-- LD Vx,[I] loads V0 .. Vx from I .. I+x and changes nothing else, I and memory included; where I + x
passes 4095 it raises MemoryOutOfBounds and writes nothing (R165). -/
def Obligations.BlockLoadReadsTheRegisters : Prop :=
  (∀ (x : Reg) (s : State), 4095 < s.i.toNat + x.toNat → exec (.ldLoad x) s = .next (outOfBounds s)) ∧
  ∀ (x : Reg) (s : State), s.i.toNat + x.toNat ≤ 4095 →
    ∃ t, exec (.ldLoad x) s = .next t ∧
      (∀ z : Reg, z.toNat ≤ x.toNat → t.reg z = s.memByte (s.i.toNat + z.toNat)) ∧
      Frame { regs := regsUpTo x } s t

/-- Storing V0 .. Vx and loading them back from the same address, with anything done to the registers in
between, reproduces them (R164, R165). -/
def Obligations.BlockStoreThenLoadRestoresTheRegisters : Prop :=
  ∀ (x : Reg) (s t u v : State), s.i.toNat + x.toNat ≤ 4095 →
    exec (.ldStore x) s = .next t → u.mem = t.mem → u.i = t.i →
    exec (.ldLoad x) u = .next v →
    ∀ z : Reg, z.toNat ≤ x.toNat → v.reg z = s.reg z

/-- The bounds rule of the four memory instructions: a range that passes 4095 raises MemoryOutOfBounds
with the lowest out-of-range address and has no other effect; the range is never wrapped; and so for a
fetch (R61). The fields `inputs` and
`draws` are the model's own, and that they advance is its choice (log entry 2). -/
def Obligations.OutOfRangeAccessHasNoOtherEffect : Prop :=
  (∀ s : State, s.fault = none → 4095 < s.pc.toNat + 1 →
    step s = .next { outOfBounds s with
      faultInfo := BitVec.ofNat 16 (max s.pc.toNat 4096)
      inputs := s.inputs.tail
      draws := s.draws + 1 }) ∧
  ∀ (i : Instr) (s : State), 0 < touched i →
    (4095 < s.i.toNat + touched i - 1 →
      exec i s = .next (outOfBounds s)) ∧
    (s.i.toNat + touched i - 1 ≤ 4095 →
      ∃ t, exec i s = .next t ∧ t.fault = s.fault ∧ t.faultInfo = s.faultInfo)

/-- A block store over the bytes that will be fetched next is seen by the very next step's fetch: its
word is the two registers stored there, the lower the high byte (R65, R55). -/
def Obligations.StoreIsSeenByTheNextFetch : Prop :=
  ∀ (s t : State) (x z : Reg), Fetches s (.ldStore x) → s.i.toNat + x.toNat ≤ 4095 →
    z.toNat + 1 ≤ x.toNat → s.pc.toNat + 2 = s.i.toNat + z.toNat → step s = .next t →
    t.fault = none ∧ t.fetch = .bytes (s.reg z) (s.reg (z + 1#4))

/-! ### The display -/

/-- CLS clears every pixel, sets DIRTY and writes nothing else (R170). -/
def Obligations.ClsClearsTheDisplay : Prop :=
  ∀ s : State, ∃ t, exec .cls s = .next t ∧
    (∀ r c, r < 32 → c < 64 → t.pixel r c = false) ∧ t.dirty = true ∧
    Frame { fb := true, dirty := true } s t

/-- DRW, pixel by pixel: the blitter's loops XOR each pixel of the frame with the sprite bit that falls
on it, clip what falls outside, set VF to 1 iff some pixel went from 1 to 0 and to 0 otherwise, and set
DIRTY; where the n > 0 row bytes pass 4095 it raises MemoryOutOfBounds and does nothing else (R171). -/
def Obligations.DrwXorsTheClippedSprite : Prop :=
  (∀ (x y : Reg) (n : Nibble) (s : State), ¬ InRange s n.toNat →
    exec (.drw x y n) s = .next (outOfBounds s)) ∧
  ∀ (x y : Reg) (n : Nibble) (s : State), InRange s n.toNat →
    ∃ t, exec (.drw x y n) s = .next t ∧
      (∀ r c, r < 32 → c < 64 →
        t.pixel r c = (s.pixel r c ^^ spriteBit s (s.reg x) (s.reg y) n r c)) ∧
      (t.reg Reg.vf = 0#8 ∨ t.reg Reg.vf = 1#8) ∧
      (t.reg Reg.vf = 1#8 ↔ ∃ r c, r < 32 ∧ c < 64 ∧ s.pixel r c = true ∧ t.pixel r c = false) ∧
      t.dirty = true ∧
      Frame { regs := [Reg.vf], fb := true, dirty := true } s t

/-- Drawing the same sprite twice at the same place gives back the display, and the second drawing
collides iff the first lit a pixel (R171; 95_test_vectors.md S7). -/
def Obligations.DrawingTwiceRestoresTheDisplay : Prop :=
  ∀ (x y : Reg) (n : Nibble) (s t u : State), x ≠ Reg.vf → y ≠ Reg.vf → InRange s n.toNat →
    exec (.drw x y n) s = .next t → exec (.drw x y n) t = .next u →
    u.fb = s.fb ∧
    (u.reg Reg.vf = 1#8 ↔ ∃ r c, r < 32 ∧ c < 64 ∧ s.pixel r c = false ∧ t.pixel r c = true)

/-- DIRTY is cleared by the flush acknowledge or by reset and by nothing else, the acknowledge clears
nothing but DIRTY, and the read port shows FB row-major (R35, R217). -/
def Obligations.DirtyIsClearedOnlyByTheHost : Prop :=
  (∀ (h h' : Session) (m : HostMove), h.move m = .next h' → h.core.dirty = true →
    h'.core.dirty = false → m = .flushAck ∨ m = .reset) ∧
  (∀ h : Session, h.move .flushAck = .next ⟨{ h.core with dirty := false }, h.loadable⟩) ∧
  (∀ (s : State) (r c : Nat), r < 32 → c < 64 → s.fbPort (r * 64 + c) = s.pixel r c)

/-! ### Timers and keys -/

/-- LD Vx,DT, LD DT,Vx and LD ST,Vx, at the end of Execute (R180, R182, R183). -/
def Obligations.TimerMoves : Prop :=
  (∀ (x : Reg) (s : State), ∃ t, exec (.ldVxDT x) s = .next t ∧ t.reg x = s.dt ∧
    Frame { regs := [x] } s t) ∧
  (∀ (x : Reg) (s : State), ∃ t, exec (.ldDTVx x) s = .next t ∧ t.dt = s.reg x ∧
    Frame { dt := true } s t) ∧
  (∀ (x : Reg) (s : State), ∃ t, exec (.ldSTVx x) s = .next t ∧ t.st = s.reg x ∧
    Frame { st := true } s t)

/-- LD Vx,K takes the lowest pressed key, or goes back to itself while none is pressed (R181). -/
def Obligations.KeyWaitTakesTheLowestKey : Prop :=
  (∀ (x : Reg) (s : State), s.keys ≠ 0#16 →
    ∃ t k, exec (.ldVxK x) s = .next t ∧ k < 16 ∧ s.keys.getLsbD k = true ∧
      (∀ j, j < k → s.keys.getLsbD j = false) ∧ (t.reg x).toNat = k ∧ Frame { regs := [x] } s t) ∧
  (∀ (x : Reg) (s : State), s.keys = 0#16 →
    exec (.ldVxK x) s = .next { s with pc := s.pc - 2#16 })

/-- A whole step that waits for a key changes nothing but the timers, PC included
(R181 (c), (d), R240). The fields `inputs` and
`draws` are the model's own, and that they advance is its choice (log entry 2). -/
def Obligations.WaitingStepChangesOnlyTheTimers : Prop :=
  ∀ (s : State) (x : Reg), Fetches s (.ldVxK x) → s.keys = 0#16 →
    step s = .next { s with
      dt := ticked s.dt
      st := ticked s.st
      inputs := s.inputs.tail
      draws := s.draws + 1 }

/-- A sound of one step is silent, and a longer one is heard when the step ends: sound_active is ST > 0
after TimerTick (R183, R214, R242). -/
def Obligations.SoundOfOneStepIsSilent : Prop :=
  ∀ (s t : State) (x : Reg), Fetches s (.ldSTVx x) → step s = .next t →
    (t.soundActive = true ↔ 2 ≤ (s.reg x).toNat)

/-! ### The host's moves -/

/-- A program that fits is placed verbatim from PROG_BASE and nothing else changes; a longer one is a
load failure. The host's load does so once after a reset and before the first step: after a load or a step
no further load is honoured until the next reset (R236; that such a load changes nothing is R223 as log
entry 11 reads it). -/
def Obligations.ProgramLoadPlacesTheBytes : Prop :=
  (∀ (s : State) (p : List Byte), p.length ≤ 4096 - Config.progBase →
    ∃ t, s.loadProgram p = .next t ∧
      (∀ k (h : k < p.length), t.memByte (Config.progBase + k) = p[k]) ∧
      Frame { storeAt := Config.progBase, storeLen := p.length } s t) ∧
  (∀ (s : State) (p : List Byte), 4096 - Config.progBase < p.length →
    s.loadProgram p = .refused (.loadFailure p.length)) ∧
  (∀ (h : Session) (p : List Byte), h.loadable = true → p.length ≤ 4096 - Config.progBase →
    ∃ t, h.core.loadProgram p = .next t ∧ h.move (.load p) = .next ⟨t, false⟩) ∧
  (∀ (h : Session) (p : List Byte), h.loadable = true → 4096 - Config.progBase < p.length →
    h.move (.load p) = .refused (.loadFailure p.length)) ∧
  (∀ (h h' h'' : Session) (m : HostMove) (p : List Byte), (∃ q, m = .load q) ∨ (∃ k r, m = .step k r) →
    h.move m = .next h' → h'.move (.load p) = .next h'' → h'' = h')

/-- During a run the host's moves change memory only through the program's own stores: no move but
reset, or a load before the first step, changes a byte that the step does not store to (R62, R67). That
a step ends the time of loading, and that a load which is not honoured (after a load or a step, until the
next reset) changes nothing, is R236 and R223 as the model reads them (log entry 11, its choice). -/
def Obligations.HostChangesMemoryOnlyByResetAndLoad : Prop :=
  (∀ (h h' : Session) (keys : BitVec 16) (rnd : Byte), h.move (.step keys rnd) = .next h' →
    h'.loadable = false ∧
    ∀ a, h'.core.memByte a ≠ h.core.memByte a →
      ∃ i, Fetches h.core i ∧ (changes h.core i).storeAt ≤ a ∧
        a < (changes h.core i).storeAt + (changes h.core i).storeLen) ∧
  (∀ h h' : Session, h.move .flushAck = .next h' → h'.core.mem = h.core.mem) ∧
  (∀ (h h' : Session) (p : List Byte), h.loadable = false → h.move (.load p) = .next h' → h' = h)
end

