-- ==== Sys2Proof/Laws/Memory.lean ====
section
/-! SUPPORT. Main memory: a read after a write, and every operation keeps the canonical form. -/

namespace Sys2Proof.Machine

theorem Memory.get_erase_other (m : Memory) {a c : Nat} (h : c ≠ a) :
    (Memory.erase m a).get c = m.get c := by
  induction m with
  | nil => rfl
  | cons e m ih =>
    obtain ⟨k, b⟩ := e
    by_cases hk : k = a
    · have : Memory.erase ((k, b) :: m) a = Memory.erase m a := by simp [Memory.erase, hk]
      rw [this, ih, Memory.get, if_neg (hk ▸ h)]
    · have : Memory.erase ((k, b) :: m) a = (k, b) :: Memory.erase m a := by simp [Memory.erase, hk]
      simp [this, Memory.get, ih]

theorem Memory.get_of_not_listed (m : Memory) {a : Nat} (h : ∀ e ∈ m, e.1 ≠ a) :
    m.get a = Memory.background a := by
  induction m with
  | nil => rfl
  | cons e m ih =>
    have ha : a ≠ e.1 := fun he => h e List.mem_cons_self he.symm
    rw [Memory.get, if_neg ha]
    exact ih fun x hx => h x (List.mem_cons_of_mem _ hx)

theorem Memory.not_listed_erase (m : Memory) (a : Nat) : ∀ e ∈ Memory.erase m a, e.1 ≠ a := by
  simp [Memory.erase]

theorem Memory.get_insertCell (m : Memory) (a : Nat) (b : Byte) (h : ∀ e ∈ m, e.1 ≠ a) (c : Nat) :
    (Memory.insertCell m a b).get c = if c = a then b else m.get c := by
  induction m with
  | nil => simp [Memory.insertCell, Memory.get]
  | cons e m ih =>
    obtain ⟨k, d⟩ := e
    have hk : k ≠ a := h _ List.mem_cons_self
    have ih := ih fun x hx => h x (List.mem_cons_of_mem _ hx)
    by_cases hl : a < k
    · simp [Memory.insertCell, hl, Memory.get]
    · by_cases hc : c = k
      · subst hc
        simp [Memory.insertCell, hl, Memory.get, hk]
      · simp [Memory.insertCell, hl, Memory.get, hc, ih]

/-- A read of any address after a store of one byte. -/
@[simp] theorem Memory.get_set (m : Memory) (a : Nat) (b : Byte) (c : Nat) :
    (m.set a b).get c = if c = a then b else m.get c := by
  unfold Memory.set
  split
  · next hb =>
    by_cases hc : c = a
    · subst hc
      rw [if_pos rfl, Memory.get_of_not_listed _ (Memory.not_listed_erase m c), hb]
    · rw [if_neg hc, Memory.get_erase_other m hc]
  · rw [Memory.get_insertCell _ _ _ (Memory.not_listed_erase m a)]
    by_cases hc : c = a
    · simp [hc]
    · simp [hc, Memory.get_erase_other m hc]

/-- A read of any address after a store of a list of bytes. -/
theorem Memory.get_setBytes (m : Memory) (a : Nat) (bs : List Byte) (c : Nat) :
    (m.setBytes a bs).get c =
      if h : a ≤ c ∧ c < a + bs.length then bs[c - a]'(by omega) else m.get c := by
  induction bs generalizing m a with
  | nil => simp [Memory.setBytes]
  | cons b bs ih =>
    rw [Memory.setBytes, ih]
    by_cases h1 : a + 1 ≤ c ∧ c < a + 1 + bs.length
    · have h2 : a ≤ c ∧ c < a + (b :: bs).length := by simp; omega
      have h3 : c - a = (c - (a + 1)) + 1 := by omega
      simp only [dif_pos h1, dif_pos h2, h3, List.getElem_cons_succ]
    · by_cases hc : c = a
      · subst hc
        simp
      · have h2 : ¬(a ≤ c ∧ c < a + (b :: bs).length) := by simp at *; omega
        rw [dif_neg h1, dif_neg h2, Memory.get_set, if_neg hc]

/-! ### The canonical form -/

theorem Memory.wf_nil : Memory.wf [] := by decide

theorem Memory.wf_erase {m : Memory} (h : m.wf) (a : Nat) : (Memory.erase m a).wf :=
  ⟨h.1.filter _, fun c hc => h.2 c (List.mem_of_mem_filter hc)⟩

theorem Memory.mem_insertCell (m : Memory) (a : Nat) (b : Byte) (e : Host.Cell) :
    e ∈ Memory.insertCell m a b ↔ e = (a, b) ∨ e ∈ m := by
  induction m with
  | nil => simp [Memory.insertCell]
  | cons d m ih =>
    by_cases hl : a < d.1
    · simp [Memory.insertCell, hl]
    · simp only [Memory.insertCell, hl, if_false, List.mem_cons, ih]
      tauto

theorem Memory.pairwise_insertCell {m : Memory} (a : Nat) (b : Byte)
    (h : m.Pairwise (fun c d => c.1 < d.1)) (hn : ∀ e ∈ m, e.1 ≠ a) :
    (Memory.insertCell m a b).Pairwise (fun c d => c.1 < d.1) := by
  induction m with
  | nil => simp [Memory.insertCell]
  | cons d m ih =>
    rw [List.pairwise_cons] at h
    by_cases hl : a < d.1
    · simp only [Memory.insertCell, hl, if_true, List.pairwise_cons]
      exact ⟨fun e he => by
        rcases List.mem_cons.mp he with rfl | he
        · exact hl
        · exact hl.trans (h.1 e he), h⟩
    · have hd : d.1 < a := by have := hn d List.mem_cons_self; omega
      simp only [Memory.insertCell, hl, if_false, List.pairwise_cons]
      refine ⟨fun e he => ?_, ih h.2 fun e he => hn e (List.mem_cons_of_mem _ he)⟩
      rcases (Memory.mem_insertCell m a b e).mp he with rfl | he
      · exact hd
      · exact h.1 e he

/-- A store at an address that exists keeps the canonical form. -/
theorem Memory.wf_set {m : Memory} (h : m.wf) {a : Nat} (ha : a < Config.memSize) (b : Byte) :
    (m.set a b).wf := by
  unfold Memory.set
  split
  · exact Memory.wf_erase h a
  · next hb =>
    have he := Memory.wf_erase h a
    refine ⟨Memory.pairwise_insertCell a b he.1 (Memory.not_listed_erase m a), fun e hm => ?_⟩
    rcases (Memory.mem_insertCell _ a b e).mp hm with rfl | hm
    · exact ⟨ha, hb⟩
    · exact he.2 e hm

/-- A store of bytes at addresses that exist keeps the canonical form. -/
theorem Memory.wf_setBytes {m : Memory} (h : m.wf) {a : Nat} {bs : List Byte}
    (ha : a + bs.length ≤ Config.memSize) : (m.setBytes a bs).wf := by
  induction bs generalizing m a with
  | nil => exact h
  | cons b bs ih =>
    simp only [List.length_cons] at ha
    exact ih (Memory.wf_set h (by omega) b) (by omega)

end Sys2Proof.Machine
end

