-- ==== Sys2Proof/Laws/State.lean ====
section
/-! SUPPORT. What each update of the state does to each of its fields and to each reader, so that no
later proof unfolds a record update. -/

namespace Sys2Proof.Machine


/-! ### `setReg` -/

@[simp] theorem State.setReg_mem (s : State) (x : Reg) (b : Byte) : (s.setReg x b).mem = s.mem := rfl
@[simp] theorem State.setReg_v (s : State) (x : Reg) (b : Byte) : (s.setReg x b).v = s.v.set x.toNat b x.isLt := rfl
@[simp] theorem State.setReg_i (s : State) (x : Reg) (b : Byte) : (s.setReg x b).i = s.i := rfl
@[simp] theorem State.setReg_pc (s : State) (x : Reg) (b : Byte) : (s.setReg x b).pc = s.pc := rfl
@[simp] theorem State.setReg_stack (s : State) (x : Reg) (b : Byte) : (s.setReg x b).stack = s.stack := rfl
@[simp] theorem State.setReg_dt (s : State) (x : Reg) (b : Byte) : (s.setReg x b).dt = s.dt := rfl
@[simp] theorem State.setReg_st (s : State) (x : Reg) (b : Byte) : (s.setReg x b).st = s.st := rfl
@[simp] theorem State.setReg_fb (s : State) (x : Reg) (b : Byte) : (s.setReg x b).fb = s.fb := rfl
@[simp] theorem State.setReg_dirty (s : State) (x : Reg) (b : Byte) : (s.setReg x b).dirty = s.dirty := rfl
@[simp] theorem State.setReg_fault (s : State) (x : Reg) (b : Byte) : (s.setReg x b).fault = s.fault := rfl
@[simp] theorem State.setReg_faultInfo (s : State) (x : Reg) (b : Byte) : (s.setReg x b).faultInfo = s.faultInfo := rfl
@[simp] theorem State.setReg_inputs (s : State) (x : Reg) (b : Byte) : (s.setReg x b).inputs = s.inputs := rfl
@[simp] theorem State.setReg_draws (s : State) (x : Reg) (b : Byte) : (s.setReg x b).draws = s.draws := rfl
@[simp] theorem State.setReg_memByte (s : State) (x : Reg) (b : Byte) (c : Nat) : (s.setReg x b).memByte c = s.memByte c := rfl
@[simp] theorem State.setReg_pixel (s : State) (x : Reg) (b : Byte) (r c : Nat) : (s.setReg x b).pixel r c = s.pixel r c := rfl
@[simp] theorem State.setReg_sp (s : State) (x : Reg) (b : Byte) : (s.setReg x b).sp = s.sp := rfl
@[simp] theorem State.setReg_halted (s : State) (x : Reg) (b : Byte) : (s.setReg x b).halted = s.halted := rfl
@[simp] theorem State.setReg_keys (s : State) (x : Reg) (b : Byte) : (s.setReg x b).keys = s.keys := rfl
@[simp] theorem State.setReg_rnd (s : State) (x : Reg) (b : Byte) : (s.setReg x b).rnd = s.rnd := rfl

/-! ### `setFlag` -/

@[simp] theorem State.setFlag_mem (s : State) (b : Byte) : (s.setFlag b).mem = s.mem := rfl
@[simp] theorem State.setFlag_v (s : State) (b : Byte) : (s.setFlag b).v = s.v.set Reg.vf.toNat b Reg.vf.isLt := rfl
@[simp] theorem State.setFlag_i (s : State) (b : Byte) : (s.setFlag b).i = s.i := rfl
@[simp] theorem State.setFlag_pc (s : State) (b : Byte) : (s.setFlag b).pc = s.pc := rfl
@[simp] theorem State.setFlag_stack (s : State) (b : Byte) : (s.setFlag b).stack = s.stack := rfl
@[simp] theorem State.setFlag_dt (s : State) (b : Byte) : (s.setFlag b).dt = s.dt := rfl
@[simp] theorem State.setFlag_st (s : State) (b : Byte) : (s.setFlag b).st = s.st := rfl
@[simp] theorem State.setFlag_fb (s : State) (b : Byte) : (s.setFlag b).fb = s.fb := rfl
@[simp] theorem State.setFlag_dirty (s : State) (b : Byte) : (s.setFlag b).dirty = s.dirty := rfl
@[simp] theorem State.setFlag_fault (s : State) (b : Byte) : (s.setFlag b).fault = s.fault := rfl
@[simp] theorem State.setFlag_faultInfo (s : State) (b : Byte) : (s.setFlag b).faultInfo = s.faultInfo := rfl
@[simp] theorem State.setFlag_inputs (s : State) (b : Byte) : (s.setFlag b).inputs = s.inputs := rfl
@[simp] theorem State.setFlag_draws (s : State) (b : Byte) : (s.setFlag b).draws = s.draws := rfl
@[simp] theorem State.setFlag_memByte (s : State) (b : Byte) (c : Nat) : (s.setFlag b).memByte c = s.memByte c := rfl
@[simp] theorem State.setFlag_pixel (s : State) (b : Byte) (r c : Nat) : (s.setFlag b).pixel r c = s.pixel r c := rfl
@[simp] theorem State.setFlag_sp (s : State) (b : Byte) : (s.setFlag b).sp = s.sp := rfl
@[simp] theorem State.setFlag_halted (s : State) (b : Byte) : (s.setFlag b).halted = s.halted := rfl
@[simp] theorem State.setFlag_keys (s : State) (b : Byte) : (s.setFlag b).keys = s.keys := rfl
@[simp] theorem State.setFlag_rnd (s : State) (b : Byte) : (s.setFlag b).rnd = s.rnd := rfl

/-! ### `setI` -/

@[simp] theorem State.setI_mem (s : State) (w : Word) : (s.setI w).mem = s.mem := rfl
@[simp] theorem State.setI_v (s : State) (w : Word) : (s.setI w).v = s.v := rfl
@[simp] theorem State.setI_i (s : State) (w : Word) : (s.setI w).i = w := rfl
@[simp] theorem State.setI_pc (s : State) (w : Word) : (s.setI w).pc = s.pc := rfl
@[simp] theorem State.setI_stack (s : State) (w : Word) : (s.setI w).stack = s.stack := rfl
@[simp] theorem State.setI_dt (s : State) (w : Word) : (s.setI w).dt = s.dt := rfl
@[simp] theorem State.setI_st (s : State) (w : Word) : (s.setI w).st = s.st := rfl
@[simp] theorem State.setI_fb (s : State) (w : Word) : (s.setI w).fb = s.fb := rfl
@[simp] theorem State.setI_dirty (s : State) (w : Word) : (s.setI w).dirty = s.dirty := rfl
@[simp] theorem State.setI_fault (s : State) (w : Word) : (s.setI w).fault = s.fault := rfl
@[simp] theorem State.setI_faultInfo (s : State) (w : Word) : (s.setI w).faultInfo = s.faultInfo := rfl
@[simp] theorem State.setI_inputs (s : State) (w : Word) : (s.setI w).inputs = s.inputs := rfl
@[simp] theorem State.setI_draws (s : State) (w : Word) : (s.setI w).draws = s.draws := rfl
@[simp] theorem State.setI_reg (s : State) (w : Word) (y : Reg) : (s.setI w).reg y = s.reg y := rfl
@[simp] theorem State.setI_memByte (s : State) (w : Word) (c : Nat) : (s.setI w).memByte c = s.memByte c := rfl
@[simp] theorem State.setI_pixel (s : State) (w : Word) (r c : Nat) : (s.setI w).pixel r c = s.pixel r c := rfl
@[simp] theorem State.setI_sp (s : State) (w : Word) : (s.setI w).sp = s.sp := rfl
@[simp] theorem State.setI_halted (s : State) (w : Word) : (s.setI w).halted = s.halted := rfl
@[simp] theorem State.setI_keys (s : State) (w : Word) : (s.setI w).keys = s.keys := rfl
@[simp] theorem State.setI_rnd (s : State) (w : Word) : (s.setI w).rnd = s.rnd := rfl

/-! ### `setPc` -/

@[simp] theorem State.setPc_mem (s : State) (w : Word) : (s.setPc w).mem = s.mem := rfl
@[simp] theorem State.setPc_v (s : State) (w : Word) : (s.setPc w).v = s.v := rfl
@[simp] theorem State.setPc_i (s : State) (w : Word) : (s.setPc w).i = s.i := rfl
@[simp] theorem State.setPc_pc (s : State) (w : Word) : (s.setPc w).pc = w := rfl
@[simp] theorem State.setPc_stack (s : State) (w : Word) : (s.setPc w).stack = s.stack := rfl
@[simp] theorem State.setPc_dt (s : State) (w : Word) : (s.setPc w).dt = s.dt := rfl
@[simp] theorem State.setPc_st (s : State) (w : Word) : (s.setPc w).st = s.st := rfl
@[simp] theorem State.setPc_fb (s : State) (w : Word) : (s.setPc w).fb = s.fb := rfl
@[simp] theorem State.setPc_dirty (s : State) (w : Word) : (s.setPc w).dirty = s.dirty := rfl
@[simp] theorem State.setPc_fault (s : State) (w : Word) : (s.setPc w).fault = s.fault := rfl
@[simp] theorem State.setPc_faultInfo (s : State) (w : Word) : (s.setPc w).faultInfo = s.faultInfo := rfl
@[simp] theorem State.setPc_inputs (s : State) (w : Word) : (s.setPc w).inputs = s.inputs := rfl
@[simp] theorem State.setPc_draws (s : State) (w : Word) : (s.setPc w).draws = s.draws := rfl
@[simp] theorem State.setPc_reg (s : State) (w : Word) (y : Reg) : (s.setPc w).reg y = s.reg y := rfl
@[simp] theorem State.setPc_memByte (s : State) (w : Word) (c : Nat) : (s.setPc w).memByte c = s.memByte c := rfl
@[simp] theorem State.setPc_pixel (s : State) (w : Word) (r c : Nat) : (s.setPc w).pixel r c = s.pixel r c := rfl
@[simp] theorem State.setPc_sp (s : State) (w : Word) : (s.setPc w).sp = s.sp := rfl
@[simp] theorem State.setPc_halted (s : State) (w : Word) : (s.setPc w).halted = s.halted := rfl
@[simp] theorem State.setPc_keys (s : State) (w : Word) : (s.setPc w).keys = s.keys := rfl
@[simp] theorem State.setPc_rnd (s : State) (w : Word) : (s.setPc w).rnd = s.rnd := rfl

/-! ### `setDt` -/

@[simp] theorem State.setDt_mem (s : State) (b : Byte) : (s.setDt b).mem = s.mem := rfl
@[simp] theorem State.setDt_v (s : State) (b : Byte) : (s.setDt b).v = s.v := rfl
@[simp] theorem State.setDt_i (s : State) (b : Byte) : (s.setDt b).i = s.i := rfl
@[simp] theorem State.setDt_pc (s : State) (b : Byte) : (s.setDt b).pc = s.pc := rfl
@[simp] theorem State.setDt_stack (s : State) (b : Byte) : (s.setDt b).stack = s.stack := rfl
@[simp] theorem State.setDt_dt (s : State) (b : Byte) : (s.setDt b).dt = b := rfl
@[simp] theorem State.setDt_st (s : State) (b : Byte) : (s.setDt b).st = s.st := rfl
@[simp] theorem State.setDt_fb (s : State) (b : Byte) : (s.setDt b).fb = s.fb := rfl
@[simp] theorem State.setDt_dirty (s : State) (b : Byte) : (s.setDt b).dirty = s.dirty := rfl
@[simp] theorem State.setDt_fault (s : State) (b : Byte) : (s.setDt b).fault = s.fault := rfl
@[simp] theorem State.setDt_faultInfo (s : State) (b : Byte) : (s.setDt b).faultInfo = s.faultInfo := rfl
@[simp] theorem State.setDt_inputs (s : State) (b : Byte) : (s.setDt b).inputs = s.inputs := rfl
@[simp] theorem State.setDt_draws (s : State) (b : Byte) : (s.setDt b).draws = s.draws := rfl
@[simp] theorem State.setDt_reg (s : State) (b : Byte) (y : Reg) : (s.setDt b).reg y = s.reg y := rfl
@[simp] theorem State.setDt_memByte (s : State) (b : Byte) (c : Nat) : (s.setDt b).memByte c = s.memByte c := rfl
@[simp] theorem State.setDt_pixel (s : State) (b : Byte) (r c : Nat) : (s.setDt b).pixel r c = s.pixel r c := rfl
@[simp] theorem State.setDt_sp (s : State) (b : Byte) : (s.setDt b).sp = s.sp := rfl
@[simp] theorem State.setDt_halted (s : State) (b : Byte) : (s.setDt b).halted = s.halted := rfl
@[simp] theorem State.setDt_keys (s : State) (b : Byte) : (s.setDt b).keys = s.keys := rfl
@[simp] theorem State.setDt_rnd (s : State) (b : Byte) : (s.setDt b).rnd = s.rnd := rfl

/-! ### `setSt` -/

@[simp] theorem State.setSt_mem (s : State) (b : Byte) : (s.setSt b).mem = s.mem := rfl
@[simp] theorem State.setSt_v (s : State) (b : Byte) : (s.setSt b).v = s.v := rfl
@[simp] theorem State.setSt_i (s : State) (b : Byte) : (s.setSt b).i = s.i := rfl
@[simp] theorem State.setSt_pc (s : State) (b : Byte) : (s.setSt b).pc = s.pc := rfl
@[simp] theorem State.setSt_stack (s : State) (b : Byte) : (s.setSt b).stack = s.stack := rfl
@[simp] theorem State.setSt_dt (s : State) (b : Byte) : (s.setSt b).dt = s.dt := rfl
@[simp] theorem State.setSt_st (s : State) (b : Byte) : (s.setSt b).st = b := rfl
@[simp] theorem State.setSt_fb (s : State) (b : Byte) : (s.setSt b).fb = s.fb := rfl
@[simp] theorem State.setSt_dirty (s : State) (b : Byte) : (s.setSt b).dirty = s.dirty := rfl
@[simp] theorem State.setSt_fault (s : State) (b : Byte) : (s.setSt b).fault = s.fault := rfl
@[simp] theorem State.setSt_faultInfo (s : State) (b : Byte) : (s.setSt b).faultInfo = s.faultInfo := rfl
@[simp] theorem State.setSt_inputs (s : State) (b : Byte) : (s.setSt b).inputs = s.inputs := rfl
@[simp] theorem State.setSt_draws (s : State) (b : Byte) : (s.setSt b).draws = s.draws := rfl
@[simp] theorem State.setSt_reg (s : State) (b : Byte) (y : Reg) : (s.setSt b).reg y = s.reg y := rfl
@[simp] theorem State.setSt_memByte (s : State) (b : Byte) (c : Nat) : (s.setSt b).memByte c = s.memByte c := rfl
@[simp] theorem State.setSt_pixel (s : State) (b : Byte) (r c : Nat) : (s.setSt b).pixel r c = s.pixel r c := rfl
@[simp] theorem State.setSt_sp (s : State) (b : Byte) : (s.setSt b).sp = s.sp := rfl
@[simp] theorem State.setSt_halted (s : State) (b : Byte) : (s.setSt b).halted = s.halted := rfl
@[simp] theorem State.setSt_keys (s : State) (b : Byte) : (s.setSt b).keys = s.keys := rfl
@[simp] theorem State.setSt_rnd (s : State) (b : Byte) : (s.setSt b).rnd = s.rnd := rfl

/-! ### `setFb` -/

@[simp] theorem State.setFb_mem (s : State) (f : Display) : (s.setFb f).mem = s.mem := rfl
@[simp] theorem State.setFb_v (s : State) (f : Display) : (s.setFb f).v = s.v := rfl
@[simp] theorem State.setFb_i (s : State) (f : Display) : (s.setFb f).i = s.i := rfl
@[simp] theorem State.setFb_pc (s : State) (f : Display) : (s.setFb f).pc = s.pc := rfl
@[simp] theorem State.setFb_stack (s : State) (f : Display) : (s.setFb f).stack = s.stack := rfl
@[simp] theorem State.setFb_dt (s : State) (f : Display) : (s.setFb f).dt = s.dt := rfl
@[simp] theorem State.setFb_st (s : State) (f : Display) : (s.setFb f).st = s.st := rfl
@[simp] theorem State.setFb_fb (s : State) (f : Display) : (s.setFb f).fb = f := rfl
@[simp] theorem State.setFb_dirty (s : State) (f : Display) : (s.setFb f).dirty = s.dirty := rfl
@[simp] theorem State.setFb_fault (s : State) (f : Display) : (s.setFb f).fault = s.fault := rfl
@[simp] theorem State.setFb_faultInfo (s : State) (f : Display) : (s.setFb f).faultInfo = s.faultInfo := rfl
@[simp] theorem State.setFb_inputs (s : State) (f : Display) : (s.setFb f).inputs = s.inputs := rfl
@[simp] theorem State.setFb_draws (s : State) (f : Display) : (s.setFb f).draws = s.draws := rfl
@[simp] theorem State.setFb_reg (s : State) (f : Display) (y : Reg) : (s.setFb f).reg y = s.reg y := rfl
@[simp] theorem State.setFb_memByte (s : State) (f : Display) (c : Nat) : (s.setFb f).memByte c = s.memByte c := rfl
@[simp] theorem State.setFb_sp (s : State) (f : Display) : (s.setFb f).sp = s.sp := rfl
@[simp] theorem State.setFb_halted (s : State) (f : Display) : (s.setFb f).halted = s.halted := rfl
@[simp] theorem State.setFb_keys (s : State) (f : Display) : (s.setFb f).keys = s.keys := rfl
@[simp] theorem State.setFb_rnd (s : State) (f : Display) : (s.setFb f).rnd = s.rnd := rfl

/-! ### `markDirty` -/

@[simp] theorem State.markDirty_mem (s : State) : s.markDirty.mem = s.mem := rfl
@[simp] theorem State.markDirty_v (s : State) : s.markDirty.v = s.v := rfl
@[simp] theorem State.markDirty_i (s : State) : s.markDirty.i = s.i := rfl
@[simp] theorem State.markDirty_pc (s : State) : s.markDirty.pc = s.pc := rfl
@[simp] theorem State.markDirty_stack (s : State) : s.markDirty.stack = s.stack := rfl
@[simp] theorem State.markDirty_dt (s : State) : s.markDirty.dt = s.dt := rfl
@[simp] theorem State.markDirty_st (s : State) : s.markDirty.st = s.st := rfl
@[simp] theorem State.markDirty_fb (s : State) : s.markDirty.fb = s.fb := rfl
@[simp] theorem State.markDirty_dirty (s : State) : s.markDirty.dirty = true := rfl
@[simp] theorem State.markDirty_fault (s : State) : s.markDirty.fault = s.fault := rfl
@[simp] theorem State.markDirty_faultInfo (s : State) : s.markDirty.faultInfo = s.faultInfo := rfl
@[simp] theorem State.markDirty_inputs (s : State) : s.markDirty.inputs = s.inputs := rfl
@[simp] theorem State.markDirty_draws (s : State) : s.markDirty.draws = s.draws := rfl
@[simp] theorem State.markDirty_reg (s : State) (y : Reg) : s.markDirty.reg y = s.reg y := rfl
@[simp] theorem State.markDirty_memByte (s : State) (c : Nat) : s.markDirty.memByte c = s.memByte c := rfl
@[simp] theorem State.markDirty_pixel (s : State) (r c : Nat) : s.markDirty.pixel r c = s.pixel r c := rfl
@[simp] theorem State.markDirty_sp (s : State) : s.markDirty.sp = s.sp := rfl
@[simp] theorem State.markDirty_halted (s : State) : s.markDirty.halted = s.halted := rfl
@[simp] theorem State.markDirty_keys (s : State) : s.markDirty.keys = s.keys := rfl
@[simp] theorem State.markDirty_rnd (s : State) : s.markDirty.rnd = s.rnd := rfl

/-! ### `advancePc` -/

@[simp] theorem State.advancePc_mem (s : State) : s.advancePc.mem = s.mem := rfl
@[simp] theorem State.advancePc_v (s : State) : s.advancePc.v = s.v := rfl
@[simp] theorem State.advancePc_i (s : State) : s.advancePc.i = s.i := rfl
@[simp] theorem State.advancePc_pc (s : State) : s.advancePc.pc = s.pc + 2#16 := rfl
@[simp] theorem State.advancePc_stack (s : State) : s.advancePc.stack = s.stack := rfl
@[simp] theorem State.advancePc_dt (s : State) : s.advancePc.dt = s.dt := rfl
@[simp] theorem State.advancePc_st (s : State) : s.advancePc.st = s.st := rfl
@[simp] theorem State.advancePc_fb (s : State) : s.advancePc.fb = s.fb := rfl
@[simp] theorem State.advancePc_dirty (s : State) : s.advancePc.dirty = s.dirty := rfl
@[simp] theorem State.advancePc_fault (s : State) : s.advancePc.fault = s.fault := rfl
@[simp] theorem State.advancePc_faultInfo (s : State) : s.advancePc.faultInfo = s.faultInfo := rfl
@[simp] theorem State.advancePc_inputs (s : State) : s.advancePc.inputs = s.inputs := rfl
@[simp] theorem State.advancePc_draws (s : State) : s.advancePc.draws = s.draws := rfl
@[simp] theorem State.advancePc_reg (s : State) (y : Reg) : s.advancePc.reg y = s.reg y := rfl
@[simp] theorem State.advancePc_memByte (s : State) (c : Nat) : s.advancePc.memByte c = s.memByte c := rfl
@[simp] theorem State.advancePc_pixel (s : State) (r c : Nat) : s.advancePc.pixel r c = s.pixel r c := rfl
@[simp] theorem State.advancePc_sp (s : State) : s.advancePc.sp = s.sp := rfl
@[simp] theorem State.advancePc_halted (s : State) : s.advancePc.halted = s.halted := rfl
@[simp] theorem State.advancePc_keys (s : State) : s.advancePc.keys = s.keys := rfl
@[simp] theorem State.advancePc_rnd (s : State) : s.advancePc.rnd = s.rnd := rfl

/-! ### `raise` -/

@[simp] theorem State.raise_mem (s : State) (k : FaultKind) (w : Word) : (s.raise k w).mem = s.mem := rfl
@[simp] theorem State.raise_v (s : State) (k : FaultKind) (w : Word) : (s.raise k w).v = s.v := rfl
@[simp] theorem State.raise_i (s : State) (k : FaultKind) (w : Word) : (s.raise k w).i = s.i := rfl
@[simp] theorem State.raise_pc (s : State) (k : FaultKind) (w : Word) : (s.raise k w).pc = s.pc := rfl
@[simp] theorem State.raise_stack (s : State) (k : FaultKind) (w : Word) : (s.raise k w).stack = s.stack := rfl
@[simp] theorem State.raise_dt (s : State) (k : FaultKind) (w : Word) : (s.raise k w).dt = s.dt := rfl
@[simp] theorem State.raise_st (s : State) (k : FaultKind) (w : Word) : (s.raise k w).st = s.st := rfl
@[simp] theorem State.raise_fb (s : State) (k : FaultKind) (w : Word) : (s.raise k w).fb = s.fb := rfl
@[simp] theorem State.raise_dirty (s : State) (k : FaultKind) (w : Word) : (s.raise k w).dirty = s.dirty := rfl
@[simp] theorem State.raise_fault (s : State) (k : FaultKind) (w : Word) : (s.raise k w).fault = some k := rfl
@[simp] theorem State.raise_faultInfo (s : State) (k : FaultKind) (w : Word) : (s.raise k w).faultInfo = w := rfl
@[simp] theorem State.raise_inputs (s : State) (k : FaultKind) (w : Word) : (s.raise k w).inputs = s.inputs := rfl
@[simp] theorem State.raise_draws (s : State) (k : FaultKind) (w : Word) : (s.raise k w).draws = s.draws := rfl
@[simp] theorem State.raise_reg (s : State) (k : FaultKind) (w : Word) (y : Reg) : (s.raise k w).reg y = s.reg y := rfl
@[simp] theorem State.raise_memByte (s : State) (k : FaultKind) (w : Word) (c : Nat) : (s.raise k w).memByte c = s.memByte c := rfl
@[simp] theorem State.raise_pixel (s : State) (k : FaultKind) (w : Word) (r c : Nat) : (s.raise k w).pixel r c = s.pixel r c := rfl
@[simp] theorem State.raise_sp (s : State) (k : FaultKind) (w : Word) : (s.raise k w).sp = s.sp := rfl
@[simp] theorem State.raise_halted (s : State) (k : FaultKind) (w : Word) : (s.raise k w).halted = true := rfl
@[simp] theorem State.raise_keys (s : State) (k : FaultKind) (w : Word) : (s.raise k w).keys = s.keys := rfl
@[simp] theorem State.raise_rnd (s : State) (k : FaultKind) (w : Word) : (s.raise k w).rnd = s.rnd := rfl

/-! ### `storeBytes` -/

@[simp] theorem State.storeBytes_mem (s : State) (a : Nat) (bs : List Byte) : (s.storeBytes a bs).mem = s.mem.setBytes a bs := rfl
@[simp] theorem State.storeBytes_v (s : State) (a : Nat) (bs : List Byte) : (s.storeBytes a bs).v = s.v := rfl
@[simp] theorem State.storeBytes_i (s : State) (a : Nat) (bs : List Byte) : (s.storeBytes a bs).i = s.i := rfl
@[simp] theorem State.storeBytes_pc (s : State) (a : Nat) (bs : List Byte) : (s.storeBytes a bs).pc = s.pc := rfl
@[simp] theorem State.storeBytes_stack (s : State) (a : Nat) (bs : List Byte) : (s.storeBytes a bs).stack = s.stack := rfl
@[simp] theorem State.storeBytes_dt (s : State) (a : Nat) (bs : List Byte) : (s.storeBytes a bs).dt = s.dt := rfl
@[simp] theorem State.storeBytes_st (s : State) (a : Nat) (bs : List Byte) : (s.storeBytes a bs).st = s.st := rfl
@[simp] theorem State.storeBytes_fb (s : State) (a : Nat) (bs : List Byte) : (s.storeBytes a bs).fb = s.fb := rfl
@[simp] theorem State.storeBytes_dirty (s : State) (a : Nat) (bs : List Byte) : (s.storeBytes a bs).dirty = s.dirty := rfl
@[simp] theorem State.storeBytes_fault (s : State) (a : Nat) (bs : List Byte) : (s.storeBytes a bs).fault = s.fault := rfl
@[simp] theorem State.storeBytes_faultInfo (s : State) (a : Nat) (bs : List Byte) : (s.storeBytes a bs).faultInfo = s.faultInfo := rfl
@[simp] theorem State.storeBytes_inputs (s : State) (a : Nat) (bs : List Byte) : (s.storeBytes a bs).inputs = s.inputs := rfl
@[simp] theorem State.storeBytes_draws (s : State) (a : Nat) (bs : List Byte) : (s.storeBytes a bs).draws = s.draws := rfl
@[simp] theorem State.storeBytes_reg (s : State) (a : Nat) (bs : List Byte) (y : Reg) : (s.storeBytes a bs).reg y = s.reg y := rfl
@[simp] theorem State.storeBytes_pixel (s : State) (a : Nat) (bs : List Byte) (r c : Nat) : (s.storeBytes a bs).pixel r c = s.pixel r c := rfl
@[simp] theorem State.storeBytes_sp (s : State) (a : Nat) (bs : List Byte) : (s.storeBytes a bs).sp = s.sp := rfl
@[simp] theorem State.storeBytes_halted (s : State) (a : Nat) (bs : List Byte) : (s.storeBytes a bs).halted = s.halted := rfl
@[simp] theorem State.storeBytes_keys (s : State) (a : Nat) (bs : List Byte) : (s.storeBytes a bs).keys = s.keys := rfl
@[simp] theorem State.storeBytes_rnd (s : State) (a : Nat) (bs : List Byte) : (s.storeBytes a bs).rnd = s.rnd := rfl

/-! ### `nextInput` -/

@[simp] theorem State.nextInput_mem (s : State) : s.nextInput.mem = s.mem := rfl
@[simp] theorem State.nextInput_v (s : State) : s.nextInput.v = s.v := rfl
@[simp] theorem State.nextInput_i (s : State) : s.nextInput.i = s.i := rfl
@[simp] theorem State.nextInput_pc (s : State) : s.nextInput.pc = s.pc := rfl
@[simp] theorem State.nextInput_stack (s : State) : s.nextInput.stack = s.stack := rfl
@[simp] theorem State.nextInput_dt (s : State) : s.nextInput.dt = s.dt := rfl
@[simp] theorem State.nextInput_st (s : State) : s.nextInput.st = s.st := rfl
@[simp] theorem State.nextInput_fb (s : State) : s.nextInput.fb = s.fb := rfl
@[simp] theorem State.nextInput_dirty (s : State) : s.nextInput.dirty = s.dirty := rfl
@[simp] theorem State.nextInput_fault (s : State) : s.nextInput.fault = s.fault := rfl
@[simp] theorem State.nextInput_faultInfo (s : State) : s.nextInput.faultInfo = s.faultInfo := rfl
@[simp] theorem State.nextInput_inputs (s : State) : s.nextInput.inputs = s.inputs.tail := rfl
@[simp] theorem State.nextInput_draws (s : State) : s.nextInput.draws = s.draws + 1 := rfl
@[simp] theorem State.nextInput_reg (s : State) (y : Reg) : s.nextInput.reg y = s.reg y := rfl
@[simp] theorem State.nextInput_memByte (s : State) (c : Nat) : s.nextInput.memByte c = s.memByte c := rfl
@[simp] theorem State.nextInput_pixel (s : State) (r c : Nat) : s.nextInput.pixel r c = s.pixel r c := rfl
@[simp] theorem State.nextInput_sp (s : State) : s.nextInput.sp = s.sp := rfl
@[simp] theorem State.nextInput_halted (s : State) : s.nextInput.halted = s.halted := rfl

/-! ### `withInput` -/

@[simp] theorem State.withInput_mem (s : State) (x : StepInput) : (s.withInput x).mem = s.mem := rfl
@[simp] theorem State.withInput_v (s : State) (x : StepInput) : (s.withInput x).v = s.v := rfl
@[simp] theorem State.withInput_i (s : State) (x : StepInput) : (s.withInput x).i = s.i := rfl
@[simp] theorem State.withInput_pc (s : State) (x : StepInput) : (s.withInput x).pc = s.pc := rfl
@[simp] theorem State.withInput_stack (s : State) (x : StepInput) : (s.withInput x).stack = s.stack := rfl
@[simp] theorem State.withInput_dt (s : State) (x : StepInput) : (s.withInput x).dt = s.dt := rfl
@[simp] theorem State.withInput_st (s : State) (x : StepInput) : (s.withInput x).st = s.st := rfl
@[simp] theorem State.withInput_fb (s : State) (x : StepInput) : (s.withInput x).fb = s.fb := rfl
@[simp] theorem State.withInput_dirty (s : State) (x : StepInput) : (s.withInput x).dirty = s.dirty := rfl
@[simp] theorem State.withInput_fault (s : State) (x : StepInput) : (s.withInput x).fault = s.fault := rfl
@[simp] theorem State.withInput_faultInfo (s : State) (x : StepInput) : (s.withInput x).faultInfo = s.faultInfo := rfl
@[simp] theorem State.withInput_inputs (s : State) (x : StepInput) : (s.withInput x).inputs = x :: s.inputs := rfl
@[simp] theorem State.withInput_draws (s : State) (x : StepInput) : (s.withInput x).draws = s.draws := rfl
@[simp] theorem State.withInput_reg (s : State) (x : StepInput) (y : Reg) : (s.withInput x).reg y = s.reg y := rfl
@[simp] theorem State.withInput_memByte (s : State) (x : StepInput) (c : Nat) : (s.withInput x).memByte c = s.memByte c := rfl
@[simp] theorem State.withInput_pixel (s : State) (x : StepInput) (r c : Nat) : (s.withInput x).pixel r c = s.pixel r c := rfl
@[simp] theorem State.withInput_sp (s : State) (x : StepInput) : (s.withInput x).sp = s.sp := rfl
@[simp] theorem State.withInput_halted (s : State) (x : StepInput) : (s.withInput x).halted = s.halted := rfl
@[simp] theorem State.withInput_keys (s : State) (x : StepInput) : (s.withInput x).keys = x.keys := rfl
@[simp] theorem State.withInput_rnd (s : State) (x : StepInput) : (s.withInput x).rnd = x.rnd := rfl

/-! ### `timerTick` -/

@[simp] theorem State.timerTick_mem (s : State) : s.timerTick.mem = s.mem := rfl
@[simp] theorem State.timerTick_v (s : State) : s.timerTick.v = s.v := rfl
@[simp] theorem State.timerTick_i (s : State) : s.timerTick.i = s.i := rfl
@[simp] theorem State.timerTick_pc (s : State) : s.timerTick.pc = s.pc := rfl
@[simp] theorem State.timerTick_stack (s : State) : s.timerTick.stack = s.stack := rfl
@[simp] theorem State.timerTick_dt (s : State) : s.timerTick.dt = tickByte s.dt := rfl
@[simp] theorem State.timerTick_st (s : State) : s.timerTick.st = tickByte s.st := rfl
@[simp] theorem State.timerTick_fb (s : State) : s.timerTick.fb = s.fb := rfl
@[simp] theorem State.timerTick_dirty (s : State) : s.timerTick.dirty = s.dirty := rfl
@[simp] theorem State.timerTick_fault (s : State) : s.timerTick.fault = s.fault := rfl
@[simp] theorem State.timerTick_faultInfo (s : State) : s.timerTick.faultInfo = s.faultInfo := rfl
@[simp] theorem State.timerTick_inputs (s : State) : s.timerTick.inputs = s.inputs := rfl
@[simp] theorem State.timerTick_draws (s : State) : s.timerTick.draws = s.draws := rfl
@[simp] theorem State.timerTick_reg (s : State) (y : Reg) : s.timerTick.reg y = s.reg y := rfl
@[simp] theorem State.timerTick_memByte (s : State) (c : Nat) : s.timerTick.memByte c = s.memByte c := rfl
@[simp] theorem State.timerTick_pixel (s : State) (r c : Nat) : s.timerTick.pixel r c = s.pixel r c := rfl
@[simp] theorem State.timerTick_sp (s : State) : s.timerTick.sp = s.sp := rfl
@[simp] theorem State.timerTick_halted (s : State) : s.timerTick.halted = s.halted := rfl
@[simp] theorem State.timerTick_keys (s : State) : s.timerTick.keys = s.keys := rfl
@[simp] theorem State.timerTick_rnd (s : State) : s.timerTick.rnd = s.rnd := rfl

/-! ### `flushAck` -/

@[simp] theorem State.flushAck_mem (s : State) : s.flushAck.mem = s.mem := rfl
@[simp] theorem State.flushAck_v (s : State) : s.flushAck.v = s.v := rfl
@[simp] theorem State.flushAck_i (s : State) : s.flushAck.i = s.i := rfl
@[simp] theorem State.flushAck_pc (s : State) : s.flushAck.pc = s.pc := rfl
@[simp] theorem State.flushAck_stack (s : State) : s.flushAck.stack = s.stack := rfl
@[simp] theorem State.flushAck_dt (s : State) : s.flushAck.dt = s.dt := rfl
@[simp] theorem State.flushAck_st (s : State) : s.flushAck.st = s.st := rfl
@[simp] theorem State.flushAck_fb (s : State) : s.flushAck.fb = s.fb := rfl
@[simp] theorem State.flushAck_dirty (s : State) : s.flushAck.dirty = false := rfl
@[simp] theorem State.flushAck_fault (s : State) : s.flushAck.fault = s.fault := rfl
@[simp] theorem State.flushAck_faultInfo (s : State) : s.flushAck.faultInfo = s.faultInfo := rfl
@[simp] theorem State.flushAck_inputs (s : State) : s.flushAck.inputs = s.inputs := rfl
@[simp] theorem State.flushAck_draws (s : State) : s.flushAck.draws = s.draws := rfl
@[simp] theorem State.flushAck_reg (s : State) (y : Reg) : s.flushAck.reg y = s.reg y := rfl
@[simp] theorem State.flushAck_memByte (s : State) (c : Nat) : s.flushAck.memByte c = s.memByte c := rfl
@[simp] theorem State.flushAck_pixel (s : State) (r c : Nat) : s.flushAck.pixel r c = s.pixel r c := rfl
@[simp] theorem State.flushAck_sp (s : State) : s.flushAck.sp = s.sp := rfl
@[simp] theorem State.flushAck_halted (s : State) : s.flushAck.halted = s.halted := rfl
@[simp] theorem State.flushAck_keys (s : State) : s.flushAck.keys = s.keys := rfl
@[simp] theorem State.flushAck_rnd (s : State) : s.flushAck.rnd = s.rnd := rfl

end Sys2Proof.Machine
end

