-- ==== Sys2Proof/Laws/Ops.lean ====
section
/-! SUPPORT. One lemma per shared operation that says everything it can do. -/

namespace Sys2Proof.Machine

/-! ### Registers -/

/-- A register after a write of a register (R21, R43). -/
@[simp] theorem State.reg_setReg (s : State) (x : Reg) (b : Byte) (y : Reg) :
    (s.setReg x b).reg y = if y = x then b else s.reg y := by
  simp only [State.reg, State.setReg_v, Vector.getElem_set]
  by_cases h : y = x
  · simp [h]
  · have : ¬ x.toNat = y.toNat := fun e => h (BitVec.eq_of_toNat_eq e).symm
    simp [h, this]

/-- A register after a write of VF (R22). -/
@[simp] theorem State.reg_setFlag (s : State) (b : Byte) (y : Reg) :
    (s.setFlag b).reg y = if y = Reg.vf then b else s.reg y := State.reg_setReg s Reg.vf b y

/-- A register after a flag and a result: the result last (R106). -/
@[simp] theorem State.reg_writeFlagged (s : State) (x : Reg) (flag result : Byte) (y : Reg) :
    (s.writeFlagged x flag result).reg y =
      if y = x then result else if y = Reg.vf then flag else s.reg y := by
  simp [State.writeFlagged]

/-- Two states with equal registers have equal register files. -/
theorem State.v_ext {s t : State} (h : ∀ x : Reg, s.reg x = t.reg x) : s.v = t.v := by
  apply Vector.ext
  intro k hk
  have := h (BitVec.ofNat 4 k)
  simpa [State.reg, Nat.mod_eq_of_lt (show k < 16 from hk)] using this

/-! ### Memory -/

/-- A byte of memory after a store of bytes (R53, R57). -/
theorem State.memByte_storeBytes (s : State) (a : Nat) (bs : List Byte) (c : Nat) :
    (s.storeBytes a bs).memByte c =
      if h : a ≤ c ∧ c < a + bs.length then bs[c - a]'(by omega) else s.memByte c :=
  Memory.get_setBytes s.mem a bs c

/-- The `k`-th byte of a store (R55). -/
theorem State.memByte_storeBytes_at (s : State) (a : Nat) (bs : List Byte) {k : Nat} (h : k < bs.length) :
    (s.storeBytes a bs).memByte (a + k) = bs[k] := by
  simp [State.memByte_storeBytes, h]

/-- A byte outside a store (R53). -/
theorem State.memByte_storeBytes_of_outside (s : State) {a c : Nat} {bs : List Byte}
    (h : c < a ∨ a + bs.length ≤ c) : (s.storeBytes a bs).memByte c = s.memByte c := by
  rw [State.memByte_storeBytes, dif_neg (by omega)]

@[simp] theorem State.length_regBytes (s : State) (n : Nat) : (s.regBytes n).length = n := by
  simp [State.regBytes]

@[simp] theorem State.getElem_regBytes (s : State) (n k : Nat) (h : k < (s.regBytes n).length) :
    (s.regBytes n)[k] = s.reg (BitVec.ofNat 4 k) := by
  simp [State.regBytes]

@[simp] theorem length_bcdDigits (b : Byte) : (bcdDigits b).length = 3 := rfl

/-- The bounds rule: either the fault and nothing else, or the effect (R61). -/
theorem State.checkedFromI_cases (s : State) (len : Nat) (e : State) :
    (rangeOut s.i.toNat len = true ∧
      s.checkedFromI len e = s.raise .memoryOutOfBounds (lowestOut s.i.toNat)) ∨
    (rangeOut s.i.toNat len = false ∧ s.checkedFromI len e = e) := by
  unfold State.checkedFromI
  cases h : rangeOut s.i.toNat len <;> simp

/-- What a range that is not out leaves (R61). -/
theorem rangeOut_false {lo len : Nat} : rangeOut lo len = false ↔ len = 0 ∨ lo + len - 1 ≤ 4095 := by
  simp [rangeOut]; omega

theorem rangeOut_true {lo len : Nat} : rangeOut lo len = true ↔ 0 < len ∧ 4095 < lo + len - 1 := by
  simp [rangeOut]

/-- A block load changes registers only. -/
theorem State.loadRegs_only_v (s : State) (a n : Nat) :
    ∃ v, s.loadRegs a n = { s with v := v } := by
  induction n with
  | zero => exact ⟨s.v, rfl⟩
  | succ n ih =>
    obtain ⟨v, h⟩ := ih
    exact ⟨_, by rw [State.loadRegs, h]; rfl⟩

/-- A register after a block load of at most 16 registers (R165). -/
theorem State.reg_loadRegs (s : State) (a n : Nat) (hn : n ≤ 16) (y : Reg) :
    (s.loadRegs a n).reg y = if y.toNat < n then s.memByte (a + y.toNat) else s.reg y := by
  induction n with
  | zero => simp [State.loadRegs]
  | succ n ih =>
    rw [State.loadRegs, State.reg_setReg, ih (by omega)]
    by_cases h : y = BitVec.ofNat 4 n
    · have : y.toNat = n := by rw [h, BitVec.toNat_ofNat]; omega
      rw [if_pos h, if_pos (by omega), this]
    · have : y.toNat ≠ n := fun e => h (BitVec.eq_of_toNat_eq (by rw [BitVec.toNat_ofNat]; omega))
      simp only [if_neg h]
      by_cases h1 : y.toNat < n
      · simp [h1, Nat.lt_succ_of_lt h1]
      · simp [h1, show ¬ y.toNat < n + 1 by omega]

/-! ### Control -/

/-- PC after a skip (R125). -/
@[simp] theorem State.skipIf_pc (s : State) (c : Bool) :
    (s.skipIf c).pc = if c = true then s.pc + 2#16 else s.pc := by
  cases c <;> rfl

/-- A skip writes PC only. -/
theorem State.skipIf_only_pc (s : State) (c : Bool) : s.skipIf c = s.setPc (s.skipIf c).pc := by
  cases c <;> rfl

/-- CALL's push and jump: overflow on a full stack, or both (R29, R123). -/
theorem State.pushThenJump_cases (s : State) (w target : Word) :
    (Config.stackDepth ≤ s.sp ∧ s.pushThenJump w target = s.raise .stackOverflow 0#16) ∨
    (s.sp < Config.stackDepth ∧
      s.pushThenJump w target = { s with stack := w :: s.stack, pc := target }) := by
  unfold State.pushThenJump
  split
  · exact .inl ⟨‹_›, rfl⟩
  · exact .inr ⟨by omega, rfl⟩

/-- RET's pop: underflow on an empty stack, or the newest entry to PC (R30, R121). -/
theorem State.popIntoPc_cases (s : State) :
    (s.stack = [] ∧ s.popIntoPc = s.raise .stackUnderflow 0#16) ∨
    (∃ w rest, s.stack = w :: rest ∧ s.popIntoPc = { s with stack := rest, pc := w }) := by
  unfold State.popIntoPc
  cases h : s.stack with
  | nil => exact .inl ⟨rfl, rfl⟩
  | cons w rest => exact .inr ⟨w, rest, rfl, rfl⟩

/-! ### Keys -/

/-- No key is found iff KEYS is 0 (R181). -/
theorem lowestKey_eq_none {keys : BitVec 16} : lowestKey keys = none ↔ keys = 0#16 := by
  rw [lowestKey, List.find?_eq_none]
  constructor
  · intro h
    apply BitVec.eq_of_getLsbD_eq
    intro k hk
    simpa using h k (by simpa using hk)
  · rintro rfl
    simp

/-- The key found is pressed and every lower one is not (R181). -/
theorem lowestKey_eq_some {keys : BitVec 16} {k : Nat} (h : lowestKey keys = some k) :
    k < 16 ∧ keys.getLsbD k = true ∧ ∀ j, j < k → keys.getLsbD j = false := by
  rw [lowestKey] at h
  have hm := List.mem_of_find?_eq_some h
  have hp := List.find?_some h
  refine ⟨by simpa using hm, hp, fun j hj => ?_⟩
  rw [List.find?_range_eq_some] at h
  simpa using h.2.2 j hj

/-! ### The end of a step -/

/-- A step that ends with a fault latched does not tick (R110). -/
theorem State.endStep_of_halted {s : State} (h : s.fault ≠ none) : s.endStep = s.nextInput := by
  have : s.halted = true := by rw [State.halted, Option.isSome_iff_ne_none]; exact h
  simp [State.endStep, this]

/-- A step that ends with no fault ticks both timers (R107). -/
theorem State.endStep_of_running {s : State} (h : s.fault = none) :
    s.endStep = s.timerTick.nextInput := by
  simp [State.endStep, State.halted, h]

end Sys2Proof.Machine
end

