-- ==== Sys2Proof/Laws/Step.lean ====
section
/-! SUPPORT. What Execute and a step can do, said once. -/

namespace Sys2Proof.Machine

/-- Execute answers a next state for every instruction and every state (R105). -/
theorem exec_answers (i : Instr) (s : State) : ∃ t, exec i s = .next t := by
  cases i <;> exact ⟨_, rfl⟩

/-- What a step can do: nothing if halted; a Fetch fault; a Decode fault; or Execute of the decoded
instruction, each but the first followed by the end of the step (R100 to R110). -/
theorem step_cases (s : State) :
    (s.fault ≠ none ∧ step s = .next s) ∨
    (s.fault = none ∧ 0x0FFE < s.pc.toNat ∧
      step s = .next (s.raise .memoryOutOfBounds
        (if 0x0FFF < s.pc.toNat then s.pc else s.pc + 1#16)).endStep) ∨
    (s.fault = none ∧ s.pc.toNat ≤ 0x0FFE ∧
      ∃ r, decode [s.memByte s.pc.toNat, s.memByte (s.pc.toNat + 1)] = .reject r ∧
        step s = .next (s.advancePc.raiseReject r).endStep) ∨
    (s.fault = none ∧ s.pc.toNat ≤ 0x0FFE ∧
      ∃ i t, decode [s.memByte s.pc.toNat, s.memByte (s.pc.toNat + 1)] = .instr i ∧
        exec i s.advancePc = .next t ∧ step s = .next t.endStep) := by
  by_cases hf : s.fault = none
  · have hh : s.halted = false := by simp [State.halted, hf]
    by_cases hp : 0x0FFE < s.pc.toNat
    · exact .inr (.inl ⟨hf, hp, by simp [step, hh, State.fetch, hp]⟩)
    · have hstep : step s =
          stepBytes (s.memByte s.pc.toNat) (s.memByte (s.pc.toNat + 1)) s.advancePc := by
        simp [step, hh, State.fetch, hp]
      cases hd : decode [s.memByte s.pc.toNat, s.memByte (s.pc.toNat + 1)] with
      | reject r =>
        exact .inr (.inr (.inl ⟨hf, by omega, r, rfl, by rw [hstep, stepBytes, hd]⟩))
      | instr i =>
        obtain ⟨t, ht⟩ := exec_answers i s.advancePc
        exact .inr (.inr (.inr ⟨hf, by omega, i, t, rfl, ht, by rw [hstep, stepBytes, hd]; simp [ht]⟩))
  · have hh : s.halted = true := by rw [State.halted, Option.isSome_iff_ne_none]; exact hf
    exact .inl ⟨hf, by simp [step, hh]⟩

/-- A rejection in a step carries the fetched word (R201). -/
theorem decode_pair_reject {hi lo : Byte} {r : Reject} (h : decode [hi, lo] = .reject r) :
    r = .invalidInstruction (wordOfBytes hi lo) ∧ selectInstr (wordOfBytes hi lo) = none := by
  simp only [decode, decodeWord] at h
  split at h
  · cases h
  · next hn => exact ⟨by cases h; rfl, hn⟩

end Sys2Proof.Machine
end

