-- ==== Sys2Proof/Laws/Boundary.lean ====
section
/-! SUPPORT. What the host's moves can do, said once (60_exceptions.md R216; 70_reset_and_hazards.md
R236). -/

namespace Sys2Proof.Machine

/-- A load: a failure where the program is too long, else its bytes from PROG_BASE (R236). -/
theorem State.loadProgram_cases (s : State) (p : List Byte) :
    (4096 - Config.progBase < p.length ∧ s.loadProgram p = .refused (.loadFailure p.length)) ∨
    (p.length ≤ 4096 - Config.progBase ∧ s.loadProgram p = .next (s.storeBytes Config.progBase p)) := by
  unfold State.loadProgram
  split
  · exact .inl ⟨‹_›, rfl⟩
  · exact .inr ⟨Nat.le_of_not_lt ‹_›, rfl⟩

/-- An invoked step: nothing on a halted core, else the step with its inputs (R100, R101). -/
theorem State.invoke_cases (s : State) (keys : BitVec 16) (rnd : Byte) :
    (s.fault ≠ none ∧ s.invoke keys rnd = .next s) ∨
    (s.fault = none ∧ s.invoke keys rnd = step (s.withInput ⟨keys, rnd⟩)) := by
  by_cases hf : s.fault = none
  · exact .inr ⟨hf, by simp [State.invoke, State.halted, hf]⟩
  · exact .inl ⟨hf, by simp [State.invoke, State.halted, Option.isSome_iff_ne_none.mpr hf]⟩

/-- A move that puts the core's new state into the session. -/
theorem Session.after_eq_next {o : Outcome} {b : Bool} {h' : Session} :
    Session.after o b = .next h' ↔ o = .next h'.core ∧ h'.loadable = b := by
  obtain ⟨t, l⟩ := h'
  cases o <;> simp [Session.after, eq_comm]

/-- A move that answers a session is one of these (R216). -/
theorem Session.move_cases {h h' : Session} {m : HostMove} (hm : h.move m = .next h') :
    (m = .reset ∧ h' = ⟨h.core.hostReset, true⟩) ∨
    (m = .flushAck ∧ h' = ⟨h.core.flushAck, h.loadable⟩) ∨
    (∃ p, m = .load p ∧ h.loadable = false ∧ h' = h) ∨
    (∃ p, m = .load p ∧ h.loadable = true ∧ p.length ≤ 4096 - Config.progBase ∧
      h' = ⟨h.core.storeBytes Config.progBase p, false⟩) ∨
    (∃ keys rnd, m = .step keys rnd ∧ h.core.fault ≠ none ∧ h' = ⟨h.core, false⟩) ∨
    (∃ keys rnd t, m = .step keys rnd ∧ h.core.fault = none ∧
      step (h.core.withInput ⟨keys, rnd⟩) = .next t ∧ h' = ⟨t, false⟩) := by
  obtain ⟨t, l⟩ := h'
  cases m with
  | reset => cases hm; exact .inl ⟨rfl, rfl⟩
  | flushAck => cases hm; exact .inr (.inl ⟨rfl, rfl⟩)
  | load p =>
    simp only [Session.move] at hm
    split at hm
    · next hl =>
      obtain ⟨h1, rfl⟩ := Session.after_eq_next.mp hm
      rcases h.core.loadProgram_cases p with ⟨_, h2⟩ | ⟨hp, h2⟩
      · rw [h1] at h2; cases h2
      · rw [h1] at h2; cases h2
        exact .inr (.inr (.inr (.inl ⟨p, rfl, hl, hp, rfl⟩)))
    · next hl => cases hm; exact .inr (.inr (.inl ⟨p, rfl, by simpa using hl, rfl⟩))
  | step keys rnd =>
    obtain ⟨h1, rfl⟩ := Session.after_eq_next.mp hm
    rcases h.core.invoke_cases keys rnd with ⟨hf, h2⟩ | ⟨hf, h2⟩
    · rw [h1] at h2; cases h2
      exact .inr (.inr (.inr (.inr (.inl ⟨keys, rnd, rfl, hf, rfl⟩))))
    · exact .inr (.inr (.inr (.inr (.inr ⟨keys, rnd, t, rfl, hf, h2 ▸ h1, rfl⟩))))

end Sys2Proof.Machine
end

