-- ==== Sys2Proof/Laws/Decode.lean ====
section
/-! SUPPORT. The fields of a word as numbers, the fields of the encoder's three forms, and the bytes of a
word. -/

namespace Sys2Proof

/-! ### Fields by division (00_scope.md R8) -/

theorem toNat_fieldO (w : Word) : (fieldO w).toNat = w.toNat / 4096 := by
  have := w.isLt
  simp only [fieldO, BitVec.extractLsb'_toNat, Nat.shiftRight_eq_div_pow]
  omega

theorem toNat_fieldX (w : Word) : (fieldX w).toNat = w.toNat / 256 % 16 := by
  simp only [fieldX, BitVec.extractLsb'_toNat, Nat.shiftRight_eq_div_pow]

theorem toNat_fieldY (w : Word) : (fieldY w).toNat = w.toNat / 16 % 16 := by
  simp only [fieldY, BitVec.extractLsb'_toNat, Nat.shiftRight_eq_div_pow]

theorem toNat_fieldN (w : Word) : (fieldN w).toNat = w.toNat % 16 := by
  simp only [fieldN, BitVec.extractLsb'_toNat, Nat.shiftRight_eq_div_pow]
  omega

theorem toNat_fieldKK (w : Word) : (fieldKK w).toNat = w.toNat % 256 := by
  simp only [fieldKK, BitVec.extractLsb'_toNat, Nat.shiftRight_eq_div_pow]
  omega

theorem toNat_fieldNNN (w : Word) : (fieldNNN w).toNat = w.toNat % 4096 := by
  simp only [fieldNNN, BitVec.extractLsb'_toNat, Nat.shiftRight_eq_div_pow]
  omega

/-! ### The forms (R84) -/

theorem toNat_formNNN (o : Nibble) (nnn : Addr) :
    (formNNN o nnn).toNat = o.toNat * 4096 + nnn.toNat := by
  have := o.isLt; have := nnn.isLt
  simp only [formNNN, BitVec.toNat_ofNat]; omega

theorem toNat_formXKK (o : Nibble) (x : Reg) (kk : Byte) :
    (formXKK o x kk).toNat = o.toNat * 4096 + x.toNat * 256 + kk.toNat := by
  have := o.isLt; have := x.isLt; have := kk.isLt
  simp only [formXKK, BitVec.toNat_ofNat]; omega

theorem toNat_formXYN (o : Nibble) (x y : Reg) (n : Nibble) :
    (formXYN o x y n).toNat = o.toNat * 4096 + x.toNat * 256 + y.toNat * 16 + n.toNat := by
  have := o.isLt; have := x.isLt; have := y.isLt; have := n.isLt
  simp only [formXYN, BitVec.toNat_ofNat]; omega

@[simp] theorem fieldO_formNNN (o : Nibble) (nnn : Addr) : fieldO (formNNN o nnn) = o := by
  apply BitVec.eq_of_toNat_eq; have := o.isLt; have := nnn.isLt
  rw [toNat_fieldO, toNat_formNNN]; omega

@[simp] theorem fieldNNN_formNNN (o : Nibble) (nnn : Addr) : fieldNNN (formNNN o nnn) = nnn := by
  apply BitVec.eq_of_toNat_eq; have := nnn.isLt
  rw [toNat_fieldNNN, toNat_formNNN]; omega

@[simp] theorem fieldKK_formNNN (o : Nibble) (nnn : Addr) :
    fieldKK (formNNN o nnn) = nnn.setWidth 8 := by
  apply BitVec.eq_of_toNat_eq
  rw [toNat_fieldKK, toNat_formNNN, BitVec.toNat_setWidth]; omega

@[simp] theorem fieldO_formXKK (o : Nibble) (x : Reg) (kk : Byte) : fieldO (formXKK o x kk) = o := by
  apply BitVec.eq_of_toNat_eq; have := o.isLt; have := x.isLt; have := kk.isLt
  rw [toNat_fieldO, toNat_formXKK]; omega

@[simp] theorem fieldX_formXKK (o : Nibble) (x : Reg) (kk : Byte) : fieldX (formXKK o x kk) = x := by
  apply BitVec.eq_of_toNat_eq; have := x.isLt; have := kk.isLt
  rw [toNat_fieldX, toNat_formXKK]; omega

@[simp] theorem fieldKK_formXKK (o : Nibble) (x : Reg) (kk : Byte) : fieldKK (formXKK o x kk) = kk := by
  apply BitVec.eq_of_toNat_eq; have := kk.isLt
  rw [toNat_fieldKK, toNat_formXKK]; omega

@[simp] theorem fieldO_formXYN (o : Nibble) (x y : Reg) (n : Nibble) : fieldO (formXYN o x y n) = o := by
  apply BitVec.eq_of_toNat_eq; have := o.isLt; have := x.isLt; have := y.isLt; have := n.isLt
  rw [toNat_fieldO, toNat_formXYN]; omega

@[simp] theorem fieldX_formXYN (o : Nibble) (x y : Reg) (n : Nibble) : fieldX (formXYN o x y n) = x := by
  apply BitVec.eq_of_toNat_eq; have := x.isLt; have := y.isLt; have := n.isLt
  rw [toNat_fieldX, toNat_formXYN]; omega

@[simp] theorem fieldY_formXYN (o : Nibble) (x y : Reg) (n : Nibble) : fieldY (formXYN o x y n) = y := by
  apply BitVec.eq_of_toNat_eq; have := y.isLt; have := n.isLt
  rw [toNat_fieldY, toNat_formXYN]; omega

@[simp] theorem fieldN_formXYN (o : Nibble) (x y : Reg) (n : Nibble) : fieldN (formXYN o x y n) = n := by
  apply BitVec.eq_of_toNat_eq; have := n.isLt
  rw [toNat_fieldN, toNat_formXYN]; omega

/-- The two bytes of a word give the word back (R54). -/
@[simp] theorem wordOfBytes_bytesOfWord (w : Word) :
    wordOfBytes (w.extractLsb' 8 8) (w.extractLsb' 0 8) = w := by
  apply BitVec.eq_of_toNat_eq; have := w.isLt
  simp only [wordOfBytes, BitVec.extractLsb'_toNat, Nat.shiftRight_eq_div_pow, BitVec.toNat_ofNat]
  omega

end Sys2Proof
end

