-- ==== Sys2Proof/Laws/Display.lean ====
section
/-! SUPPORT. What drawing one sprite bit does to a pixel and to the collision (R171). -/

namespace Sys2Proof.Machine

/-- A pixel of a display, and 0 outside the frame. -/
def pixelOf (f : Display) (r c : Nat) : Bool :=
  if h : r < Config.dispH ∧ c < Config.dispW then f[r][c] else false

theorem State.pixel_eq (s : State) (r c : Nat) : s.pixel r c = pixelOf s.fb r c := rfl

/-- Displays whose pixels agree are equal. -/
theorem display_ext {f g : Display}
    (h : ∀ r c, r < Config.dispH → c < Config.dispW → pixelOf f r c = pixelOf g r c) : f = g := by
  apply Vector.ext; intro r hr
  apply Vector.ext; intro c hc
  simpa [pixelOf, hr, hc] using h r c hr hc

/-- Every pixel after one sprite bit: the bit is XORed into its own pixel, if it is in the frame. -/
theorem pixelOf_plot (c : Canvas) (row col : Nat) (bit : Bool) (r k : Nat) :
    pixelOf (plot c row col bit).fb r k =
      if r < Config.dispH ∧ k < Config.dispW ∧ r = row ∧ k = col then pixelOf c.fb r k ^^ bit
      else pixelOf c.fb r k := by
  unfold plot
  split
  · next h =>
    by_cases hf : r < Config.dispH ∧ k < Config.dispW
    · obtain ⟨hr, hk⟩ := hf
      by_cases h1 : r = row
      · subst h1
        by_cases h2 : k = col
        · subst h2
          simp only [pixelOf, hr, hk, and_self, dite_true, Vector.getElem_set_self, if_true]
        · simp only [pixelOf, hr, hk, and_self, dite_true, Vector.getElem_set_self, h2, and_false,
            if_false]
          rw [Vector.getElem_set_ne _ _ (Ne.symm h2)]
      · simp only [pixelOf, hr, hk, and_self, dite_true, h1, false_and, and_false, if_false]
        rw [Vector.getElem_set_ne _ _ (Ne.symm h1)]
    · have : ¬ (r < Config.dispH ∧ k < Config.dispW ∧ r = row ∧ k = col) := fun e => hf ⟨e.1, e.2.1⟩
      rw [if_neg this, pixelOf, pixelOf, dif_neg hf, dif_neg hf]
  · next h =>
    have : ¬ (r < Config.dispH ∧ k < Config.dispW ∧ r = row ∧ k = col) := by
      rintro ⟨h1, h2, rfl, rfl⟩
      exact h ⟨h1, h2⟩
    rw [if_neg this]

/-- The collision after one sprite bit: as before, or the bit met a lit pixel of the frame. -/
theorem collision_plot (c : Canvas) (row col : Nat) (bit : Bool) :
    (plot c row col bit).collision = (c.collision || (bit && pixelOf c.fb row col)) := by
  unfold plot
  split
  · next h => simp [pixelOf, h]
  · next h => simp [pixelOf, h]

end Sys2Proof.Machine
end

