-- ==== Sys2Proof/Laws/PerInstr.lean ====
section
/-! SUPPORT. The class nibble of every instruction's canonical word: the family ClassNibble, one lemma per
constructor of Instr (30_encoding.md R73, R76). -/

namespace Sys2Proof.Laws

/-- The group of the opcode map an instruction stands in (R73, R76). -/
def ClassNibble.group : Instr → Nibble
  | .cls => 0x0#4
  | .ret => 0x0#4
  | .sys _ => 0x0#4
  | .jp _ => 0x1#4
  | .call _ => 0x2#4
  | .seImm _ _ => 0x3#4
  | .sneImm _ _ => 0x4#4
  | .seReg _ _ => 0x5#4
  | .ldImm _ _ => 0x6#4
  | .addImm _ _ => 0x7#4
  | .ldReg _ _ => 0x8#4
  | .orReg _ _ => 0x8#4
  | .andReg _ _ => 0x8#4
  | .xorReg _ _ => 0x8#4
  | .addReg _ _ => 0x8#4
  | .sub _ _ => 0x8#4
  | .shr _ => 0x8#4
  | .subn _ _ => 0x8#4
  | .shl _ => 0x8#4
  | .sneReg _ _ => 0x9#4
  | .ldI _ => 0xA#4
  | .jpV0 _ => 0xB#4
  | .rnd _ _ => 0xC#4
  | .drw _ _ _ => 0xD#4
  | .skp _ => 0xE#4
  | .sknp _ => 0xE#4
  | .ldVxDT _ => 0xF#4
  | .ldVxK _ => 0xF#4
  | .ldDTVx _ => 0xF#4
  | .ldSTVx _ => 0xF#4
  | .addI _ => 0xF#4
  | .ldF _ => 0xF#4
  | .ldB _ => 0xF#4
  | .ldStore _ => 0xF#4
  | .ldLoad _ => 0xF#4

/-- The class nibble of the instruction's canonical word is its group's number (R73). -/
def ClassNibble.Statement (i : Instr) : Prop := fieldO (encodeWord i) = ClassNibble.group i

/-- The class nibble of the `onnn` form. -/
theorem ClassNibble.of_formNNN (o : Nibble) (nnn : Addr) : fieldO (formNNN o nnn) = o := by
  have := o.isLt
  have := nnn.isLt
  apply BitVec.eq_of_toNat_eq
  rw [toNat_fieldO, formNNN, BitVec.toNat_ofNat]
  omega

/-- The class nibble of the `oxkk` form. -/
theorem ClassNibble.of_formXKK (o : Nibble) (x : Reg) (kk : Byte) : fieldO (formXKK o x kk) = o := by
  have := o.isLt
  have := x.isLt
  have := kk.isLt
  apply BitVec.eq_of_toNat_eq
  rw [toNat_fieldO, formXKK, BitVec.toNat_ofNat]
  omega

/-- The class nibble of the `oxyn` form. -/
theorem ClassNibble.of_formXYN (o : Nibble) (x y : Reg) (n : Nibble) : fieldO (formXYN o x y n) = o := by
  have := o.isLt
  have := x.isLt
  have := y.isLt
  have := n.isLt
  apply BitVec.eq_of_toNat_eq
  rw [toNat_fieldO, formXYN, BitVec.toNat_ofNat]
  omega

theorem ClassNibble.cls :
    ClassNibble.Statement .cls :=
  ClassNibble.of_formNNN _ _
theorem ClassNibble.ret :
    ClassNibble.Statement .ret :=
  ClassNibble.of_formNNN _ _
theorem ClassNibble.sys (nnn : Addr) :
    ClassNibble.Statement (.sys nnn) :=
  ClassNibble.of_formNNN _ _
theorem ClassNibble.jp (nnn : Addr) :
    ClassNibble.Statement (.jp nnn) :=
  ClassNibble.of_formNNN _ _
theorem ClassNibble.call (nnn : Addr) :
    ClassNibble.Statement (.call nnn) :=
  ClassNibble.of_formNNN _ _
theorem ClassNibble.seImm (x : Reg) (kk : Byte) :
    ClassNibble.Statement (.seImm x kk) :=
  ClassNibble.of_formXKK _ _ _
theorem ClassNibble.sneImm (x : Reg) (kk : Byte) :
    ClassNibble.Statement (.sneImm x kk) :=
  ClassNibble.of_formXKK _ _ _
theorem ClassNibble.seReg (x : Reg) (y : Reg) :
    ClassNibble.Statement (.seReg x y) :=
  ClassNibble.of_formXYN _ _ _ _
theorem ClassNibble.ldImm (x : Reg) (kk : Byte) :
    ClassNibble.Statement (.ldImm x kk) :=
  ClassNibble.of_formXKK _ _ _
theorem ClassNibble.addImm (x : Reg) (kk : Byte) :
    ClassNibble.Statement (.addImm x kk) :=
  ClassNibble.of_formXKK _ _ _
theorem ClassNibble.ldReg (x : Reg) (y : Reg) :
    ClassNibble.Statement (.ldReg x y) :=
  ClassNibble.of_formXYN _ _ _ _
theorem ClassNibble.orReg (x : Reg) (y : Reg) :
    ClassNibble.Statement (.orReg x y) :=
  ClassNibble.of_formXYN _ _ _ _
theorem ClassNibble.andReg (x : Reg) (y : Reg) :
    ClassNibble.Statement (.andReg x y) :=
  ClassNibble.of_formXYN _ _ _ _
theorem ClassNibble.xorReg (x : Reg) (y : Reg) :
    ClassNibble.Statement (.xorReg x y) :=
  ClassNibble.of_formXYN _ _ _ _
theorem ClassNibble.addReg (x : Reg) (y : Reg) :
    ClassNibble.Statement (.addReg x y) :=
  ClassNibble.of_formXYN _ _ _ _
theorem ClassNibble.sub (x : Reg) (y : Reg) :
    ClassNibble.Statement (.sub x y) :=
  ClassNibble.of_formXYN _ _ _ _
theorem ClassNibble.shr (x : Reg) :
    ClassNibble.Statement (.shr x) :=
  ClassNibble.of_formXYN _ _ _ _
theorem ClassNibble.subn (x : Reg) (y : Reg) :
    ClassNibble.Statement (.subn x y) :=
  ClassNibble.of_formXYN _ _ _ _
theorem ClassNibble.shl (x : Reg) :
    ClassNibble.Statement (.shl x) :=
  ClassNibble.of_formXYN _ _ _ _
theorem ClassNibble.sneReg (x : Reg) (y : Reg) :
    ClassNibble.Statement (.sneReg x y) :=
  ClassNibble.of_formXYN _ _ _ _
theorem ClassNibble.ldI (nnn : Addr) :
    ClassNibble.Statement (.ldI nnn) :=
  ClassNibble.of_formNNN _ _
theorem ClassNibble.jpV0 (nnn : Addr) :
    ClassNibble.Statement (.jpV0 nnn) :=
  ClassNibble.of_formNNN _ _
theorem ClassNibble.rnd (x : Reg) (kk : Byte) :
    ClassNibble.Statement (.rnd x kk) :=
  ClassNibble.of_formXKK _ _ _
theorem ClassNibble.drw (x : Reg) (y : Reg) (n : Nibble) :
    ClassNibble.Statement (.drw x y n) :=
  ClassNibble.of_formXYN _ _ _ _
theorem ClassNibble.skp (x : Reg) :
    ClassNibble.Statement (.skp x) :=
  ClassNibble.of_formXKK _ _ _
theorem ClassNibble.sknp (x : Reg) :
    ClassNibble.Statement (.sknp x) :=
  ClassNibble.of_formXKK _ _ _
theorem ClassNibble.ldVxDT (x : Reg) :
    ClassNibble.Statement (.ldVxDT x) :=
  ClassNibble.of_formXKK _ _ _
theorem ClassNibble.ldVxK (x : Reg) :
    ClassNibble.Statement (.ldVxK x) :=
  ClassNibble.of_formXKK _ _ _
theorem ClassNibble.ldDTVx (x : Reg) :
    ClassNibble.Statement (.ldDTVx x) :=
  ClassNibble.of_formXKK _ _ _
theorem ClassNibble.ldSTVx (x : Reg) :
    ClassNibble.Statement (.ldSTVx x) :=
  ClassNibble.of_formXKK _ _ _
theorem ClassNibble.addI (x : Reg) :
    ClassNibble.Statement (.addI x) :=
  ClassNibble.of_formXKK _ _ _
theorem ClassNibble.ldF (x : Reg) :
    ClassNibble.Statement (.ldF x) :=
  ClassNibble.of_formXKK _ _ _
theorem ClassNibble.ldB (x : Reg) :
    ClassNibble.Statement (.ldB x) :=
  ClassNibble.of_formXKK _ _ _
theorem ClassNibble.ldStore (x : Reg) :
    ClassNibble.Statement (.ldStore x) :=
  ClassNibble.of_formXKK _ _ _
theorem ClassNibble.ldLoad (x : Reg) :
    ClassNibble.Statement (.ldLoad x) :=
  ClassNibble.of_formXKK _ _ _

end Sys2Proof.Laws
end

