-- ==== Sys2Proof/Tests/Slice0.lean ====
section
/-! SUPPORT. The model's own tests. Each expected value is from spec/95_test_vectors.md (its vector's id in
the comment) or worked out by hand from the rule named; each is one step on a small state. Then, for every
statement with hypotheses, a witness that meets them. -/

open Sys2Proof Sys2Proof.Machine Sys2Proof.Claims

namespace Sys2Proof.Tests

/-! ### Small states -/

/-- The reset state with the words `ws` at 0x200. -/
def prog (ws : List Word) : State := State.reset.storeBytes 0x200 (ws.flatMap bytesOfWord)

/-- `s` with registers set. -/
def regs (s : State) (l : List (Reg × Byte)) : State := l.foldl (fun t p => t.setReg p.1 p.2) s

/-- `s` with the next step's KEYS and RNDBYTE. -/
def given (s : State) (keys : BitVec 16) (rnd : Byte) : State := s.withInput ⟨keys, rnd⟩

/-- `s` with both timers set. -/
def timers (s : State) (dt st : Byte) : State := (s.setDt dt).setSt st

/-- `s` with its stack, the newest entry first. -/
def stacked (s : State) (l : List Word) : State := { s with stack := l }

/-- `s` with one more pixel lit. -/
def lit (s : State) (r c : Nat) : State := s.setFb (plot ⟨s.fb, false⟩ r c true).fb

/-- The step from `s` answers a next state that meets `p`. -/
def after (s : State) (p : State → Bool) : Bool :=
  match step s with
  | .next t => p t
  | .fault _ => false
  | .refused _ => false

/-- The step latches the fault `k` with `info`, PC being `pc`. -/
def faults (s : State) (k : FaultKind) (info pc : Word) : Bool :=
  after s fun t => t.fault = some k ∧ t.faultInfo = info ∧ t.pc = pc

theorem after_next {s : State} {p : State → Bool} (h : after s p = true) :
    ∃ t, step s = .next t ∧ p t = true := by
  unfold after at h
  split at h
  · exact ⟨_, ‹_›, h⟩
  · cases h
  · cases h

/-! ### Well-formedness (R74, R76 row 1): an ill-formed term for each check -/

theorem test_wellFormed_sys_refuses_cls : Instr.wellFormed (.sys 0x0E0#12) = false := by decide
theorem test_wellFormed_sys_refuses_ret : Instr.wellFormed (.sys 0x1EE#12) = false := by decide
theorem test_wellFormed_sys : Instr.wellFormed (.sys 0x123#12) = true := by decide

/-! ### Decoding: the word of every constructor, written out from R76, high byte first -/

theorem test_decode_group0 :
    decode [0x00#8, 0xE0#8] = .instr .cls ∧ decode [0x01#8, 0xE0#8] = .instr .cls ∧
    decode [0x00#8, 0xEE#8] = .instr .ret ∧ decode [0x0F#8, 0xEE#8] = .instr .ret ∧
    decode [0x01#8, 0x23#8] = .instr (.sys 0x123#12) ∧ decode [0x00#8, 0xEF#8] = .instr (.sys 0x0EF#12) := by
  decide
theorem test_decode_control :
    decode [0x12#8, 0x04#8] = .instr (.jp 0x204#12) ∧ decode [0x23#8, 0x00#8] = .instr (.call 0x300#12) ∧
    decode [0xBF#8, 0xFE#8] = .instr (.jpV0 0xFFE#12) := by decide
theorem test_decode_skips :
    decode [0x3A#8, 0x42#8] = .instr (.seImm 0xA#4 0x42#8) ∧ decode [0x4A#8, 0x42#8] = .instr (.sneImm 0xA#4 0x42#8) ∧
    decode [0x51#8, 0x20#8] = .instr (.seReg 1#4 2#4) ∧ decode [0x51#8, 0x27#8] = .instr (.seReg 1#4 2#4) ∧
    decode [0x91#8, 0x20#8] = .instr (.sneReg 1#4 2#4) ∧ decode [0x91#8, 0x2F#8] = .instr (.sneReg 1#4 2#4) ∧
    decode [0xE1#8, 0x9E#8] = .instr (.skp 1#4) ∧ decode [0xE1#8, 0xA1#8] = .instr (.sknp 1#4) := by decide
theorem test_decode_loads_and_logic :
    decode [0x60#8, 0x05#8] = .instr (.ldImm 0#4 0x05#8) ∧ decode [0x71#8, 0xFF#8] = .instr (.addImm 1#4 0xFF#8) ∧
    decode [0x81#8, 0x20#8] = .instr (.ldReg 1#4 2#4) ∧ decode [0x81#8, 0x21#8] = .instr (.orReg 1#4 2#4) ∧
    decode [0x81#8, 0x22#8] = .instr (.andReg 1#4 2#4) ∧ decode [0x81#8, 0x23#8] = .instr (.xorReg 1#4 2#4) ∧
    decode [0xC1#8, 0x0F#8] = .instr (.rnd 1#4 0x0F#8) := by decide
theorem test_decode_flag_writers :
    decode [0x80#8, 0x14#8] = .instr (.addReg 0#4 1#4) ∧ decode [0x8F#8, 0x15#8] = .instr (.sub 0xF#4 1#4) ∧
    decode [0x83#8, 0x46#8] = .instr (.shr 3#4) ∧ decode [0x81#8, 0x27#8] = .instr (.subn 1#4 2#4) ∧
    decode [0x83#8, 0x0E#8] = .instr (.shl 3#4) := by decide
theorem test_decode_index_and_memory :
    decode [0xAF#8, 0xFF#8] = .instr (.ldI 0xFFF#12) ∧ decode [0xF2#8, 0x1E#8] = .instr (.addI 2#4) ∧
    decode [0xF0#8, 0x29#8] = .instr (.ldF 0#4) ∧ decode [0xFA#8, 0x33#8] = .instr (.ldB 0xA#4) ∧
    decode [0xF3#8, 0x55#8] = .instr (.ldStore 3#4) ∧ decode [0xF2#8, 0x65#8] = .instr (.ldLoad 2#4) := by decide
theorem test_decode_display_timers_keys :
    decode [0xD1#8, 0x25#8] = .instr (.drw 1#4 2#4 5#4) ∧ decode [0xF1#8, 0x07#8] = .instr (.ldVxDT 1#4) ∧
    decode [0xF2#8, 0x0A#8] = .instr (.ldVxK 2#4) ∧ decode [0xF0#8, 0x15#8] = .instr (.ldDTVx 0#4) ∧
    decode [0xF0#8, 0x18#8] = .instr (.ldSTVx 0#4) := by decide
/-- R78: one or more illegal words of each of groups 8, E and F. -/
theorem test_decode_illegal :
    decode [0x81#8, 0x28#8] = .reject (.invalidInstruction 0x8128#16) ∧
    decode [0x81#8, 0x2F#8] = .reject (.invalidInstruction 0x812F#16) ∧
    decode [0xE1#8, 0x00#8] = .reject (.invalidInstruction 0xE100#16) ∧
    decode [0xE1#8, 0x9F#8] = .reject (.invalidInstruction 0xE19F#16) ∧
    decode [0xF1#8, 0xFF#8] = .reject (.invalidInstruction 0xF1FF#16) := by decide
/-- R84's examples, the other way round. -/
theorem test_encode :
    encode (.ldImm 0#4 0x05#8) = [0x60#8, 0x05#8] ∧ encode (.shr 3#4) = [0x83#8, 0x06#8] ∧
    encode .ret = [0x00#8, 0xEE#8] ∧ encode (.ldLoad 2#4) = [0xF2#8, 0x65#8] := by decide
/-- The table's numbering: bit 0 is the least significant bit of the 16-bit word. -/
theorem test_decodeTableWord :
    decodeTableWord 16 0xD125 = some (.drw 1#4 2#4 5#4) ∧ decodeTableWord 16 0x8128 = none ∧
    decodeTableWord 8 0x05 = some (.sys 0x005#12) := by decide
theorem test_withFetchWord :
    after (State.reset.withFetchWord 16 0x6A7B) (fun t => t.reg 0xA#4 = 0x7B#8 ∧ t.pc = 0x202#16) = true := by
  decide

/-! ### Control (T vectors) -/

-- T2
theorem test_sys : after (prog [0x0123#16]) (fun t => t.pc = 0x202#16 ∧ t.fault = none) = true := by decide
-- T7
theorem test_ret : after (stacked (prog [0x00EE#16]) [0x20A#16, 0x456#16])
    (fun t => t.pc = 0x20A#16 ∧ t.stack = [0x456#16]) = true := by decide
-- T8
theorem test_ret_underflow : faults (prog [0x00EE#16]) .stackUnderflow 0#16 0x202#16 = true := by decide
-- T4
theorem test_jp : after (prog [0x1ABC#16]) (fun t => t.pc = 0xABC#16) = true := by decide
-- T6
theorem test_call : after (prog [0x2300#16]) (fun t => t.pc = 0x300#16 ∧ t.stack = [0x202#16]) = true := by decide
-- T9
theorem test_call_overflow : faults (stacked (prog [0x2300#16]) (List.replicate 16 0x202#16))
    .stackOverflow 0#16 0x202#16 = true := by decide
-- T11
theorem test_jpV0 : after (regs (prog [0xBFFF#16]) [(0#4, 0xFF#8)])
    (fun t => t.pc = 0x10FE#16 ∧ t.fault = none) = true := by decide
-- T12, second step
theorem test_fetch_last_byte : faults ((prog []).setPc 0xFFF#16) .memoryOutOfBounds 0x1000#16 0xFFF#16 = true := by
  decide
-- T11, second step
theorem test_fetch_above : faults ((prog []).setPc 0x10FE#16) .memoryOutOfBounds 0x10FE#16 0x10FE#16 = true := by
  decide
-- T14, second step: an odd PC
theorem test_fetch_odd : after (((prog []).storeBytes 0x203 [0x61#8, 0x42#8]).setPc 0x203#16)
    (fun t => t.reg 1#4 = 0x42#8 ∧ t.pc = 0x205#16) = true := by decide

/-! ### Skips (K vectors) -/

-- K1
theorem test_seImm : after (regs (prog [0x3A42#16]) [(0xA#4, 0x42#8)]) (fun t => t.pc = 0x204#16) = true := by decide
-- K3
theorem test_sneImm : after (regs (prog [0x4A42#16]) [(0xA#4, 0x42#8)]) (fun t => t.pc = 0x202#16) = true := by decide
-- K6
theorem test_seReg : after (regs (prog [0x5120#16]) [(1#4, 7#8), (2#4, 8#8)]) (fun t => t.pc = 0x202#16) = true := by
  decide
-- K9
theorem test_sneReg : after (regs (prog [0x9120#16]) [(1#4, 7#8), (2#4, 8#8)]) (fun t => t.pc = 0x204#16) = true := by
  decide
-- K16: the key number is the low nibble
theorem test_skp : after (given (regs (prog [0xE19E#16]) [(1#4, 0x15#8)]) 0x0020#16 0#8)
    (fun t => t.pc = 0x204#16) = true := by decide
-- K13
theorem test_skp_up : after (given (regs (prog [0xE19E#16]) [(1#4, 5#8)]) 0xFFDF#16 0#8)
    (fun t => t.pc = 0x202#16) = true := by decide
-- K14
theorem test_sknp : after (given (regs (prog [0xE1A1#16]) [(1#4, 5#8)]) 0xFFDF#16 0#8)
    (fun t => t.pc = 0x204#16) = true := by decide

/-! ### Register load, arithmetic, logic, shifts, random (A vectors) -/

-- A1
theorem test_ldImm : after (prog [0x6A7B#16]) (fun t => t.reg 0xA#4 = 0x7B#8) = true := by decide
-- A2
theorem test_addImm_no_carry_flag : after (regs (prog [0x71FF#16]) [(1#4, 1#8), (0xF#4, 0#8)])
    (fun t => t.reg 1#4 = 0#8 ∧ t.reg 0xF#4 = 0#8) = true := by decide
-- A5
theorem test_ldReg : after (regs (prog [0x8120#16]) [(2#4, 0x33#8)])
    (fun t => t.reg 1#4 = 0x33#8 ∧ t.reg 2#4 = 0x33#8) = true := by decide
-- A6
theorem test_or : after (regs (prog [0x8121#16]) [(1#4, 0xF0#8), (2#4, 0x0F#8), (0xF#4, 1#8)])
    (fun t => t.reg 1#4 = 0xFF#8 ∧ t.reg 0xF#4 = 1#8) = true := by decide
-- A7
theorem test_and : after (regs (prog [0x8122#16]) [(1#4, 0xF0#8), (2#4, 0x3C#8), (0xF#4, 1#8)])
    (fun t => t.reg 1#4 = 0x30#8 ∧ t.reg 0xF#4 = 1#8) = true := by decide
-- A8
theorem test_xor : after (regs (prog [0x8123#16]) [(1#4, 0xF0#8), (2#4, 0x3C#8), (0xF#4, 1#8)])
    (fun t => t.reg 1#4 = 0xCC#8 ∧ t.reg 0xF#4 = 1#8) = true := by decide
-- A11
theorem test_addReg : after (regs (prog [0x8014#16]) [(0#4, 0xFF#8), (1#4, 0xFF#8)])
    (fun t => t.reg 0#4 = 0xFE#8 ∧ t.reg 0xF#4 = 1#8) = true := by decide
-- A14: the sum remains in VF
theorem test_addReg_vf : after (regs (prog [0x8F14#16]) [(0xF#4, 0xF0#8), (1#4, 0x20#8)])
    (fun t => t.reg 0xF#4 = 0x10#8) = true := by decide
-- A18
theorem test_sub : after (regs (prog [0x8125#16]) [(1#4, 3#8), (2#4, 5#8), (0xF#4, 1#8)])
    (fun t => t.reg 1#4 = 0xFE#8 ∧ t.reg 0xF#4 = 0#8) = true := by decide
-- A19: equal operands give flag 0
theorem test_sub_equal : after (regs (prog [0x8125#16]) [(1#4, 7#8), (2#4, 7#8), (0xF#4, 1#8)])
    (fun t => t.reg 1#4 = 0#8 ∧ t.reg 0xF#4 = 0#8) = true := by decide
-- A26: y is ignored
theorem test_shr : after (regs (prog [0x8346#16]) [(3#4, 4#8), (4#4, 0xFF#8), (0xF#4, 1#8)])
    (fun t => t.reg 3#4 = 2#8 ∧ t.reg 4#4 = 0xFF#8 ∧ t.reg 0xF#4 = 0#8) = true := by decide
-- A22
theorem test_subn : after (regs (prog [0x8127#16]) [(1#4, 3#8), (2#4, 5#8)])
    (fun t => t.reg 1#4 = 2#8 ∧ t.reg 0xF#4 = 1#8) = true := by decide
-- A24
theorem test_subn_equal : after (regs (prog [0x8127#16]) [(1#4, 5#8), (2#4, 5#8), (0xF#4, 1#8)])
    (fun t => t.reg 1#4 = 0#8 ∧ t.reg 0xF#4 = 0#8) = true := by decide
-- A28
theorem test_shl : after (regs (prog [0x830E#16]) [(3#4, 0xC1#8)])
    (fun t => t.reg 3#4 = 0x82#8 ∧ t.reg 0xF#4 = 1#8) = true := by decide
-- A31
theorem test_rnd : after (given (prog [0xC10F#16]) 0#16 0xA7#8) (fun t => t.reg 1#4 = 7#8) = true := by decide

/-! ### Index register and memory (M vectors) -/

-- M1
theorem test_ldI : after (prog [0xAFFF#16]) (fun t => t.i = 0x0FFF#16) = true := by decide
-- M4
theorem test_addI_wraps : after (regs ((prog [0xF21E#16]).setI 0xFFFF#16) [(2#4, 2#8), (0xF#4, 0x55#8)])
    (fun t => t.i = 1#16 ∧ t.reg 0xF#4 = 0x55#8) = true := by decide
-- M7
theorem test_ldF : after (regs (prog [0xF029#16]) [(0#4, 0xFF#8)]) (fun t => t.i = 0x04FB#16) = true := by decide
-- M9: the last legal I
theorem test_ldB : after (regs ((prog [0xF033#16]).setI 0xFFD#16) [(0#4, 0x64#8)])
    (fun t => t.memByte 0xFFD = 1#8 ∧ t.memByte 0xFFE = 0#8 ∧ t.memByte 0xFFF = 0#8 ∧ t.i = 0xFFD#16) = true := by
  decide
-- M10: nothing is written
theorem test_ldB_out_of_bounds : after (regs ((prog [0xF033#16]).setI 0xFFE#16) [(0#4, 0x7B#8)])
    (fun t => t.fault = some .memoryOutOfBounds ∧ t.faultInfo = 0x1000#16 ∧ t.memByte 0xFFE = 0#8) = true := by
  decide
-- M12
theorem test_ldStore : after (regs ((prog [0xF055#16]).setI 0x400#16) [(0#4, 0x0F#8), (1#4, 0x22#8)])
    (fun t => t.memByte 0x400 = 0x0F#8 ∧ t.memByte 0x401 = 0#8 ∧ t.i = 0x400#16) = true := by decide
-- M14
theorem test_ldStore_out_of_bounds : after (regs ((prog [0xFF55#16]).setI 0xFF1#16) [(0#4, 0x10#8)])
    (fun t => t.fault = some .memoryOutOfBounds ∧ t.faultInfo = 0x1000#16 ∧ t.memByte 0xFF1 = 0#8) = true := by
  decide
-- M15
theorem test_ldLoad : after (regs (((prog [0xF265#16]).setI 0x300#16).storeBytes 0x300 [1#8, 2#8, 3#8, 4#8])
      [(3#4, 0x99#8)])
    (fun t => t.reg 0#4 = 1#8 ∧ t.reg 1#4 = 2#8 ∧ t.reg 2#4 = 3#8 ∧ t.reg 3#4 = 0x99#8 ∧ t.i = 0x300#16) = true := by
  decide
-- M16: the font, glyph 0 and the last bytes of it
theorem test_ldLoad_font : after (prog [0xFF65#16])
    (fun t => t.reg 0#4 = 0xF0#8 ∧ t.reg 5#4 = 0x20#8 ∧ t.reg 0xE#4 = 0xF0#8 ∧ t.reg 0xF#4 = 0xF0#8) = true := by
  decide

/-! ### Display (G vectors) -/

-- G1, on a corner pixel
theorem test_cls : after (lit (regs (prog [0x00E0#16]) [(0xF#4, 1#8)]) 31 63)
    (fun t => t.pixel 31 63 = false ∧ t.dirty = true ∧ t.reg 0xF#4 = 1#8) = true := by decide
-- G11: most significant bit leftmost
theorem test_drw : after (regs (((prog [0xD011#16]).setI 0x300#16).storeBytes 0x300 [0xA5#8]) [(0#4, 8#8), (1#4, 4#8)])
    (fun t => (List.range 8).map (fun k => t.pixel 4 (8 + k)) =
      [true, false, true, false, false, true, false, true] ∧ t.reg 0xF#4 = 0#8 ∧ t.dirty = true) = true := by decide
-- G10: a collision
theorem test_drw_collision : after (lit (((prog [0xD011#16]).setI 0x300#16).storeBytes 0x300 [0xC0#8]) 0 1)
    (fun t => t.pixel 0 0 = true ∧ t.pixel 0 1 = false ∧ t.reg 0xF#4 = 1#8) = true := by decide

/-! ### Timers, keys, faults (D and F vectors) -/

-- D1v
theorem test_ldVxDT : after (timers (prog [0xF107#16]) 5#8 0#8) (fun t => t.reg 1#4 = 5#8 ∧ t.dt = 4#8) = true := by
  decide
-- D3v
theorem test_ldDTVx : after (regs (prog [0xF015#16]) [(0#4, 3#8)]) (fun t => t.dt = 2#8) = true := by decide
-- D8v
theorem test_ldSTVx : after (regs (prog [0xF018#16]) [(0#4, 1#8)])
    (fun t => t.st = 0#8 ∧ t.soundActive = false) = true := by decide
-- D9v
theorem test_every_instruction_ticks : after (timers (prog [0x6001#16]) 1#8 0xFF#8)
    (fun t => t.dt = 0#8 ∧ t.st = 0xFE#8) = true := by decide
-- D10v
theorem test_ldVxK_waits : after (given (timers (prog [0xF20A#16]) 3#8 1#8) 0#16 0#8)
    (fun t => t.pc = 0x200#16 ∧ t.reg 2#4 = 0#8 ∧ t.dt = 2#8 ∧ t.st = 0#8) = true := by decide
-- D12v
theorem test_ldVxK_takes_lowest : after (given (prog [0xF20A#16]) 0x0280#16 0#8)
    (fun t => t.reg 2#4 = 7#8 ∧ t.pc = 0x202#16) = true := by decide
-- F1
theorem test_no_tick_in_a_faulting_step : after (timers (prog [0x00EE#16]) 5#8 5#8)
    (fun t => t.fault = some .stackUnderflow ∧ t.dt = 5#8 ∧ t.st = 5#8) = true := by decide
-- F4
theorem test_invalid_instruction : faults (prog [0x8128#16]) .invalidInstruction 0x8128#16 0x202#16 = true := by decide
-- F2
theorem test_halted : after ((prog [0x6001#16]).raise .stackUnderflow 0#16)
    (fun t => t.reg 0#4 = 0#8 ∧ t.pc = 0x200#16) = true := by decide

/-! ### Witnesses: states and operands that meet the hypotheses of each statement -/

theorem witness_DecodeOfEncode : Instr.wellFormed (.sys 0xFFF#12) = true ∧ Instr.wellFormed (.drw 0xF#4 0#4 0xF#4) = true := by
  decide

theorem witness_EncodeOfDecodeClearsIgnoredBits : decodeWord 0x8FF6#16 = .instr (.shr 0xF#4) := by decide

theorem witness_OpcodeMapRowsDecode_groups :
    (0x0123#16 &&& 0xF000#16 = 0x0000#16 ∧ (0x0123#16).toNat % 256 ≠ 0xE0 ∧ (0x0123#16).toNat % 256 ≠ 0xEE) ∧
    0x01E0#16 &&& 0xF0FF#16 = 0x00E0#16 ∧ 0x00EE#16 &&& 0xF0FF#16 = 0x00EE#16 ∧
    0x1ABC#16 &&& 0xF000#16 = 0x1000#16 ∧ 0x2300#16 &&& 0xF000#16 = 0x2000#16 ∧
    0x3A42#16 &&& 0xF000#16 = 0x3000#16 ∧ 0x4A42#16 &&& 0xF000#16 = 0x4000#16 ∧
    0x5127#16 &&& 0xF000#16 = 0x5000#16 ∧ 0x6A7B#16 &&& 0xF000#16 = 0x6000#16 ∧
    0x71FF#16 &&& 0xF000#16 = 0x7000#16 ∧ 0x912F#16 &&& 0xF000#16 = 0x9000#16 ∧
    0xAFFF#16 &&& 0xF000#16 = 0xA000#16 ∧ 0xBFFF#16 &&& 0xF000#16 = 0xB000#16 ∧
    0xC10F#16 &&& 0xF000#16 = 0xC000#16 ∧ 0xD125#16 &&& 0xF000#16 = 0xD000#16 := by decide

theorem witness_OpcodeMapRowsDecode_subgroups :
    0x8120#16 &&& 0xF00F#16 = 0x8000#16 ∧ 0x8121#16 &&& 0xF00F#16 = 0x8001#16 ∧
    0x8122#16 &&& 0xF00F#16 = 0x8002#16 ∧ 0x8123#16 &&& 0xF00F#16 = 0x8003#16 ∧
    0x8124#16 &&& 0xF00F#16 = 0x8004#16 ∧ 0x8125#16 &&& 0xF00F#16 = 0x8005#16 ∧
    0x8346#16 &&& 0xF00F#16 = 0x8006#16 ∧ 0x8127#16 &&& 0xF00F#16 = 0x8007#16 ∧
    0x83FE#16 &&& 0xF00F#16 = 0x800E#16 ∧
    0xE19E#16 &&& 0xF0FF#16 = 0xE09E#16 ∧ 0xE1A1#16 &&& 0xF0FF#16 = 0xE0A1#16 ∧
    0xF107#16 &&& 0xF0FF#16 = 0xF007#16 ∧ 0xF20A#16 &&& 0xF0FF#16 = 0xF00A#16 ∧
    0xF015#16 &&& 0xF0FF#16 = 0xF015#16 ∧ 0xF018#16 &&& 0xF0FF#16 = 0xF018#16 ∧
    0xF21E#16 &&& 0xF0FF#16 = 0xF01E#16 ∧ 0xF029#16 &&& 0xF0FF#16 = 0xF029#16 ∧
    0xFA33#16 &&& 0xF0FF#16 = 0xF033#16 ∧ 0xF355#16 &&& 0xF0FF#16 = 0xF055#16 ∧
    0xF265#16 &&& 0xF0FF#16 = 0xF065#16 := by decide

theorem witness_Illegal : Illegal 0x8128#16 ∧ Illegal 0x8FFF#16 ∧ Illegal 0xE19D#16 ∧ Illegal 0xF1FF#16 ∧
    ¬ Illegal 0x812E#16 ∧ ¬ Illegal 0xE19E#16 ∧ ¬ Illegal 0xF065#16 ∧ ¬ Illegal 0x0000#16 := by
  refine ⟨?_, ?_, ?_, ?_, ?_, ?_, ?_, ?_⟩ <;> decide

theorem witness_IgnoredFieldsHaveNoEffect :
    decodeWord 0x5127#16 = .instr (.seReg 1#4 2#4) ∧
    0x5120#16 &&& ~~~ignoredBits (.seReg 1#4 2#4) = 0x5127#16 &&& ~~~ignoredBits (.seReg 1#4 2#4) := by decide

theorem witness_CanonicalMemoriesThatReadAlikeAreEqual :
    Memory.wf [(0x200, 0x60#8), (0x300, 1#8)] ∧
    ∀ a, Memory.get [(0x200, 0x60#8), (0x300, 1#8)] a = Memory.get (Memory.set [(0x300, 1#8)] 0x200 0x60#8) a :=
  ⟨by decide, fun _ => rfl⟩

theorem fetches_prog_ldImm : Fetches (prog [0x6001#16]) (.ldImm 0#4 1#8) := ⟨rfl, by decide, by decide⟩

theorem witness_StepRunsTheDecodedInstruction : Fetches ((prog []).setPc 0xFFE#16) (.sys 0#12) :=
  ⟨rfl, by decide, by decide⟩

theorem witness_HaltedCoreStaysUntilReset :
    ((prog []).raise .stackUnderflow 0#16).fault ≠ none ∧
    (Session.mk ((prog []).raise .stackUnderflow 0#16) false).move .flushAck =
      .next ⟨((prog []).raise .stackUnderflow 0#16).flushAck, false⟩ ∧
    (Session.mk ((prog []).raise .stackUnderflow 0#16) false).move .reset =
      .next ⟨((prog []).raise .stackUnderflow 0#16).hostReset, true⟩ := ⟨by decide, rfl, rfl⟩

theorem witness_FetchReadsTwoBytesOrFaults :
    ((prog []).setPc 0xFFE#16).pc.toNat ≤ 0x0FFE ∧ 0x0FFE < ((prog []).setPc 0xFFF#16).pc.toNat ∧
    0x0FFE < ((prog []).setPc 0x1000#16).pc.toNat ∧ ((prog []).setPc 0x1000#16).fault = none := by decide

theorem witness_IllegalWordHaltsTheCore : (prog [0x8128#16]).fault = none ∧ (prog [0x8128#16]).pc.toNat ≤ 0x0FFE ∧
    Illegal (wordAtPc (prog [0x8128#16])) := by decide

theorem witness_IllegalWordHaltsTheCore_only : ∃ t, (prog [0xE100#16]).fault = none ∧
    step (prog [0xE100#16]) = .next t ∧ t.fault = some .invalidInstruction := by
  obtain ⟨t, h, hp⟩ := after_next (s := prog [0xE100#16]) (p := fun t => t.fault = some .invalidInstruction) (by decide)
  exact ⟨t, rfl, h, of_decide_eq_true hp⟩

theorem witness_TimersTickOncePerStep : ∃ t, Fetches (regs (prog [0xF015#16]) [(0#4, 3#8)]) (.ldDTVx 0#4) ∧
    step (regs (prog [0xF015#16]) [(0#4, 3#8)]) = .next t ∧ t.fault = none := by
  obtain ⟨t, h, hp⟩ := after_next (s := regs (prog [0xF015#16]) [(0#4, 3#8)]) (p := fun t => t.fault = none) (by decide)
  exact ⟨t, ⟨rfl, by decide, by decide⟩, h, of_decide_eq_true hp⟩

theorem witness_FaultingStepHasNoOtherEffect :
    (∃ t, (prog [0x00EE#16]).fault = none ∧ step (prog [0x00EE#16]) = .next t ∧ t.fault ≠ none) ∧
    (∃ t, ((prog []).setPc 0xFFF#16).fault = none ∧ step ((prog []).setPc 0xFFF#16) = .next t ∧ t.fault ≠ none) := by
  obtain ⟨t, h, hp⟩ := after_next (s := prog [0x00EE#16]) (p := fun t => t.fault ≠ none) (by decide)
  obtain ⟨u, hu, hq⟩ := after_next (s := (prog []).setPc 0xFFF#16) (p := fun t => t.fault ≠ none) (by decide)
  exact ⟨⟨t, rfl, h, of_decide_eq_true hp⟩, ⟨u, rfl, hu, of_decide_eq_true hq⟩⟩

theorem witness_FaultsAreExactlyThoseOfTheTable :
    faultOf (prog [0x6001#16]) = none ∧ faultOf (prog [0x8128#16]) = some (.invalidInstruction, 0x8128#16) ∧
    faultOf (prog [0x00EE#16]) = some (.stackUnderflow, 0#16) ∧
    faultOf (stacked (prog [0x2300#16]) (List.replicate 16 0x202#16)) = some (.stackOverflow, 0#16) ∧
    faultOf ((prog [0xF033#16]).setI 0xFFE#16) = some (.memoryOutOfBounds, 0x1000#16) ∧
    faultOf ((prog [0xF033#16]).setI 0xFFD#16) = none ∧ faultOf ((prog [0xD010#16]).setI 0xFFFF#16) = none ∧
    faultOf ((prog []).setPc 0xFFF#16) = some (.memoryOutOfBounds, 0x1000#16) := by decide

theorem witness_PcAfterAStepIsTheTables :
    (∃ t, Fetches (prog [0x1ABC#16]) (.jp 0xABC#12) ∧ step (prog [0x1ABC#16]) = .next t ∧ t.fault = none) ∧
    (prog [0x00EE#16]).pc.toNat ≤ 0x0FFE ∧ 0x0FFE < ((prog []).setPc 0x1000#16).pc.toNat := by
  obtain ⟨t, h, hp⟩ := after_next (s := prog [0x1ABC#16]) (p := fun t => t.fault = none) (by decide)
  exact ⟨⟨t, ⟨rfl, by decide, by decide⟩, h, of_decide_eq_true hp⟩, by decide, by decide⟩

theorem witness_ExecuteChangesAndReadsOnlyWhatItsRuleNames :
    exec (.skp 1#4) (given (prog []) 0x20#16 0#8) = .next ((given (prog []) 0x20#16 0#8).skipIf false) ∧
    readsKeys (.skp 1#4) = true ∧ readsRnd (.rnd 1#4 0#8) = true ∧
    ({ given (prog []) 0x20#16 0#8 with inputs := [⟨0x20#16, 0xFF#8⟩], draws := 7 } : State).keys =
      (given (prog []) 0x20#16 0#8).keys ∧
    ({ given (prog []) 0x20#16 5#8 with inputs := [⟨0#16, 5#8⟩], draws := 7 } : State).rnd =
      (given (prog []) 0x20#16 5#8).rnd := ⟨rfl, rfl, rfl, rfl, rfl⟩

theorem witness_VfChangesOnlyWhereTheRulesSay : ∃ t,
    exec (.addReg 0#4 1#4) (regs (prog []) [(0#4, 0xFF#8), (1#4, 1#8)]) = .next t ∧
    t.reg Reg.vf ≠ (regs (prog []) [(0#4, 0xFF#8), (1#4, 1#8)]).reg Reg.vf := ⟨_, rfl, by decide⟩

theorem witness_EveryStepKeepsTheInvariant : ∃ t, (prog [0x6001#16]).Inv ∧ step (prog [0x6001#16]) = .next t := by
  obtain ⟨t, h, _⟩ := after_next (s := prog [0x6001#16]) (p := fun _ => true) (by decide)
  exact ⟨t, by decide, h⟩

/-- A reset, a load of one instruction, a step and a flush acknowledge. -/
theorem witness_EveryReachableSessionMeetsTheInvariant : ∃ h : Session, h.Reachable ∧
    h.core.reg 0#4 = 5#8 ∧ h.core.pc = 0x202#16 ∧ h.loadable = false := by
  obtain ⟨t, h, hp⟩ := after_next
    (s := given (State.reset.hostReset.storeBytes Config.progBase [0x60#8, 0x05#8]) 0#16 0#8)
    (p := fun t => t.flushAck.reg 0#4 = 5#8 ∧ t.flushAck.pc = 0x202#16) (by decide)
  have loaded : Session.Reachable ⟨State.reset.hostReset.storeBytes Config.progBase [0x60#8, 0x05#8], false⟩ :=
    .move (.load [0x60#8, 0x05#8]) (.reset State.reset) rfl
  have stepped : Session.Reachable ⟨t, false⟩ := .move (.step 0#16 0#8) loaded (by
    show Session.after (step (given (State.reset.hostReset.storeBytes Config.progBase [0x60#8, 0x05#8]) 0#16 0#8)) false = _
    rw [h]
    rfl)
  obtain ⟨hr, hpc⟩ : t.flushAck.reg 0#4 = 5#8 ∧ t.flushAck.pc = 0x202#16 := of_decide_eq_true hp
  exact ⟨_, .move .flushAck stepped rfl, hr, hpc, rfl⟩

theorem witness_EveryMoveOfTheHostKeepsTheInvariant :
    (Session.mk State.reset true).core.Inv ∧
    (Session.mk State.reset true).move (.load [0x60#8]) = .next ⟨State.reset.storeBytes Config.progBase [0x60#8], false⟩ ∧
    (Session.mk State.reset true).move .flushAck = .next ⟨State.reset.flushAck, true⟩ := ⟨by decide, rfl, rfl⟩

theorem witness_RetPopsIntoPcOrUnderflows :
    (stacked (prog []) [0x20A#16, 0x456#16]).stack = 0x20A#16 :: [0x456#16] ∧ (prog []).stack = [] := ⟨rfl, rfl⟩

theorem witness_CallPushesPcOrOverflows :
    (stacked (prog []) (List.replicate 15 0x202#16)).sp < Config.stackDepth ∧
    Config.stackDepth ≤ (stacked (prog []) (List.replicate 16 0x202#16)).sp := by decide

/-- A CALL to 0x300, where a RET stands. -/
def callAndRet : State := (prog [0x2300#16]).storeBytes 0x300 [0x00#8, 0xEE#8]

theorem witness_ReturnComesBackAfterTheCall : ∃ t v, Fetches callAndRet (.call 0x300#12) ∧
    callAndRet.sp < Config.stackDepth ∧ step callAndRet = .next t ∧ Fetches t .ret ∧ step t = .next v := by
  obtain ⟨t, h, hp⟩ := after_next (s := callAndRet)
    (p := fun t => t.fault = none ∧ t.pc.toNat ≤ 0x0FFE ∧ decodedAtPc t = .instr .ret) (by decide)
  have hf : t.fault = none ∧ t.pc.toNat ≤ 0x0FFE ∧ decodedAtPc t = .instr .ret := of_decide_eq_true hp
  obtain ⟨v, hv⟩ : ∃ v, step t = .next v := by
    rcases step_cases t with h1 | ⟨_, _, h1⟩ | ⟨_, _, _, _, h1⟩ | ⟨_, _, _, _, _, _, h1⟩
    · exact ⟨_, h1.2⟩
    all_goals exact ⟨_, h1⟩
  exact ⟨t, v, ⟨rfl, by decide, by decide⟩, by decide, h, hf, hv⟩

theorem witness_AddImmediateSetsNoFlag : (0#4 : Reg) ≠ Reg.vf ∧ (0xE#4 : Reg) ≠ Reg.vf := by decide

theorem witness_BcdStoresTheDecimalDigits : ((prog []).setI 0xFFD#16).i.toNat + 2 ≤ 4095 ∧
    4095 < ((prog []).setI 0xFFE#16).i.toNat + 2 := by decide

theorem witness_block_forms : ((prog []).setI 0xFF0#16).i.toNat + (0xF#4 : Reg).toNat ≤ 4095 ∧
    ((prog []).setI 0xFFF#16).i.toNat + (0#4 : Reg).toNat ≤ 4095 ∧
    4095 < ((prog []).setI 0xFF1#16).i.toNat + (0xF#4 : Reg).toNat := by decide

theorem witness_BlockStoreThenLoadRestoresTheRegisters : ∃ s t u v : State, ∃ x z : Reg,
    s.i.toNat + x.toNat ≤ 4095 ∧ exec (.ldStore x) s = .next t ∧ u.mem = t.mem ∧ u.i = t.i ∧
    exec (.ldLoad x) u = .next v ∧ z.toNat ≤ x.toNat := by
  obtain ⟨t, ht⟩ := exec_answers (.ldStore 3#4) ((prog []).setI 0x400#16)
  obtain ⟨v, hv⟩ := exec_answers (.ldLoad 3#4) (t.setReg 0#4 9#8)
  exact ⟨_, t, t.setReg 0#4 9#8, v, 3#4, 3#4, by decide, ht, rfl, rfl, hv, by decide⟩

theorem witness_OutOfRangeAccessHasNoOtherEffect :
    0 < touched (.ldB 0#4) ∧ 0 < touched (.drw 0#4 0#4 1#4) ∧ 0 < touched (.ldStore 0#4) ∧ 0 < touched (.ldLoad 0#4) ∧
    4095 < ((prog []).setI 0xFFE#16).i.toNat + touched (.ldB 0#4) - 1 ∧
    ((prog []).setI 0xFFD#16).i.toNat + touched (.ldB 0#4) - 1 ≤ 4095 ∧
    4095 < ((prog []).setI 0xFFFF#16).i.toNat + touched (.ldStore 0xF#4) - 1 ∧
    ((prog []).setPc 0xFFF#16).fault = none ∧ 4095 < ((prog []).setPc 0xFFF#16).pc.toNat + 1 := by decide

theorem witness_StoreIsSeenByTheNextFetch : ∃ t, Fetches ((prog [0xF155#16]).setI 0x202#16) (.ldStore 1#4) ∧
    ((prog [0xF155#16]).setI 0x202#16).i.toNat + (1#4 : Reg).toNat ≤ 4095 ∧
    (0#4 : Reg).toNat + 1 ≤ (1#4 : Reg).toNat ∧
    ((prog [0xF155#16]).setI 0x202#16).pc.toNat + 2 = ((prog [0xF155#16]).setI 0x202#16).i.toNat + (0#4 : Reg).toNat ∧
    step ((prog [0xF155#16]).setI 0x202#16) = .next t := by
  obtain ⟨t, h, _⟩ := after_next (s := (prog [0xF155#16]).setI 0x202#16) (p := fun _ => true) (by decide)
  exact ⟨t, ⟨rfl, by decide, by decide⟩, by decide, by decide, by decide, h⟩

theorem witness_InRange : InRange ((prog []).setI 0xFFFF#16) (0#4 : Nibble).toNat ∧
    InRange ((prog []).setI 0xFFB#16) (5#4 : Nibble).toNat ∧ InRange (prog []) (0xF#4 : Nibble).toNat ∧
    ¬ InRange ((prog []).setI 0xFFC#16) (5#4 : Nibble).toNat := by
  unfold InRange
  decide

theorem witness_DrawingTwiceRestoresTheDisplay : ∃ t u : State,
    (0#4 : Reg) ≠ Reg.vf ∧ (1#4 : Reg) ≠ Reg.vf ∧ InRange (prog []) (0xF#4 : Nibble).toNat ∧
    exec (.drw 0#4 1#4 0xF#4) (prog []) = .next t ∧ exec (.drw 0#4 1#4 0xF#4) t = .next u := by
  obtain ⟨t, ht⟩ := exec_answers (.drw 0#4 1#4 0xF#4) (prog [])
  obtain ⟨u, hu⟩ := exec_answers (.drw 0#4 1#4 0xF#4) t
  exact ⟨t, u, by decide, by decide, witness_InRange.2.2.1, ht, hu⟩

theorem witness_DirtyIsClearedOnlyByTheHost :
    (Session.mk (prog []).markDirty false).core.dirty = true ∧
    (Session.mk (prog []).markDirty false).move .flushAck = .next ⟨(prog []).markDirty.flushAck, false⟩ ∧
    (prog []).markDirty.flushAck.dirty = false ∧
    (Session.mk (prog []).markDirty false).move .reset = .next ⟨(prog []).markDirty.hostReset, true⟩ ∧
    (prog []).markDirty.hostReset.dirty = false := ⟨rfl, rfl, rfl, rfl, rfl⟩

theorem witness_KeyWaitTakesTheLowestKey :
    (given (prog []) 0x8000#16 0#8).keys ≠ 0#16 ∧ (given (prog []) 0#16 0#8).keys = 0#16 := by decide

theorem witness_WaitingStepChangesOnlyTheTimers :
    Fetches (given (prog [0xF20A#16]) 0#16 0#8) (.ldVxK 2#4) ∧ (given (prog [0xF20A#16]) 0#16 0#8).keys = 0#16 :=
  ⟨⟨rfl, by decide, by decide⟩, rfl⟩

theorem witness_SoundOfOneStepIsSilent : ∃ t, Fetches (regs (prog [0xF018#16]) [(0#4, 2#8)]) (.ldSTVx 0#4) ∧
    step (regs (prog [0xF018#16]) [(0#4, 2#8)]) = .next t ∧ t.soundActive = true := by
  obtain ⟨t, h, hp⟩ := after_next (s := regs (prog [0xF018#16]) [(0#4, 2#8)]) (p := fun t => t.soundActive) (by decide)
  exact ⟨t, ⟨rfl, by decide, by decide⟩, h, hp⟩

theorem witness_ProgramLoadPlacesTheBytes_once :
    (Session.mk (prog []) true).move (.load [0x12#8]) = .next ⟨(prog []).storeBytes Config.progBase [0x12#8], false⟩ ∧
    (Session.mk ((prog []).storeBytes Config.progBase [0x12#8]) false).move (.load [0x34#8]) =
      .next ⟨(prog []).storeBytes Config.progBase [0x12#8], false⟩ ∧
    (∃ h', (Session.mk ((prog []).raise .stackUnderflow 0#16) true).move (.step 0#16 0#8) = .next h') :=
  ⟨rfl, rfl, ⟨_, rfl⟩⟩

theorem witness_ProgramLoadPlacesTheBytes :
    (List.replicate 3584 0x12#8).length ≤ 4096 - Config.progBase ∧
    4096 - Config.progBase < (List.replicate 3585 0x12#8).length := by
  simp only [List.length_replicate]
  decide

theorem witness_HostChangesMemoryOnlyByResetAndLoad :
    (∃ h', (Session.mk (prog [0x6001#16]) true).move (.step 0#16 0#8) = .next h') ∧
    (Session.mk (prog []) false).loadable = false ∧
    (Session.mk (prog []) false).move (.load [0x12#8]) = .next ⟨prog [], false⟩ := by
  obtain ⟨t, h, _⟩ := after_next (s := given (prog [0x6001#16]) 0#16 0#8) (p := fun _ => true) (by decide)
  exact ⟨⟨⟨t, false⟩, by
    show Session.after (step (given (prog [0x6001#16]) 0#16 0#8)) false = _
    rw [h]; rfl⟩, rfl, rfl⟩

end Sys2Proof.Tests
end

/-! ## The family 10_state.md: the state's reset values, PC, VF and the invariant -/

namespace Sys2Proof.Machine

open Sys2Proof.Claims

/-! ### The rest of the rules of the state's operations -/

@[simp] theorem State.skipIf_mem (s : State) (c : Bool) : (s.skipIf c).mem = s.mem :=
  (congrArg State.mem (s.skipIf_only_pc c)).trans rfl
@[simp] theorem State.skipIf_stack (s : State) (c : Bool) : (s.skipIf c).stack = s.stack :=
  (congrArg State.stack (s.skipIf_only_pc c)).trans rfl
@[simp] theorem State.skipIf_fault (s : State) (c : Bool) : (s.skipIf c).fault = s.fault :=
  (congrArg State.fault (s.skipIf_only_pc c)).trans rfl
@[simp] theorem State.skipIf_faultInfo (s : State) (c : Bool) : (s.skipIf c).faultInfo = s.faultInfo :=
  (congrArg State.faultInfo (s.skipIf_only_pc c)).trans rfl
@[simp] theorem State.skipIf_reg (s : State) (c : Bool) (y : Reg) : (s.skipIf c).reg y = s.reg y :=
  (congrArg (State.reg · y) (s.skipIf_only_pc c)).trans rfl

/-- The PC advance and a skip: two words on (R25). -/
theorem add_two_add_two (w : Word) : w + 2#16 + 2#16 = w + 4#16 := BitVec.add_assoc w 2#16 2#16

theorem State.loadRegs_pc (s : State) (a n : Nat) : (s.loadRegs a n).pc = s.pc := by
  obtain ⟨v, hv⟩ := s.loadRegs_only_v a n
  rw [hv]

/-- What a fault and the effect both keep, the effect behind the bounds check keeps (R61, R206). -/
theorem State.checkedFromI_keeps {α : Type} (read : State → α) {s e : State} {len : Nat}
    (hraise : ∀ k info, read (s.raise k info) = read s) (heffect : read e = read s) :
    read (s.checkedFromI len e) = read s := by
  rcases s.checkedFromI_cases len e with ⟨_, he⟩ | ⟨_, he⟩ <;> rw [he]
  · exact hraise _ _
  · exact heffect

@[simp] theorem State.takeKey_none (s : State) (x : Reg) : s.takeKey x none = s.setPc (s.pc - 2#16) := rfl
@[simp] theorem State.takeKey_some (s : State) (x : Reg) (k : Nat) :
    s.takeKey x (some k) = s.setReg x (BitVec.ofNat 8 k) := rfl

/-- The end of a step writes the timers and the model's inputs only (R107, R218). -/
theorem State.endStep_only_timers (s : State) :
    s.endStep = { s with
      dt := s.endStep.dt, st := s.endStep.st, inputs := s.inputs.tail, draws := s.draws + 1 } := by
  unfold State.endStep
  split <;> rfl

@[simp] theorem State.endStep_mem (s : State) : s.endStep.mem = s.mem :=
  (congrArg State.mem s.endStep_only_timers).trans rfl
@[simp] theorem State.endStep_pc (s : State) : s.endStep.pc = s.pc :=
  (congrArg State.pc s.endStep_only_timers).trans rfl
@[simp] theorem State.endStep_stack (s : State) : s.endStep.stack = s.stack :=
  (congrArg State.stack s.endStep_only_timers).trans rfl
@[simp] theorem State.endStep_fault (s : State) : s.endStep.fault = s.fault :=
  (congrArg State.fault s.endStep_only_timers).trans rfl
@[simp] theorem State.endStep_faultInfo (s : State) : s.endStep.faultInfo = s.faultInfo :=
  (congrArg State.faultInfo s.endStep_only_timers).trans rfl

/-! ### What Execute can do to memory, the stack and the fault registers -/

/-- The faults of Execute, each with the instruction that raises it, its cause and its information
(R200, R202, R203, R204). -/
inductive ExecFault (s : State) : Instr → FaultKind → Word → Prop where
  | underflow (empty : s.stack = []) : ExecFault s .ret .stackUnderflow 0#16
  | overflow (nnn : Addr) (full : Config.stackDepth ≤ s.sp) : ExecFault s (.call nnn) .stackOverflow 0#16
  | bounds (i : Instr) (out : rangeOut s.i.toNat (touched i) = true) :
      ExecFault s i .memoryOutOfBounds (lowestOut s.i.toNat)

/-- What Execute can do to the elements the invariant speaks of: raise a fault and nothing else, push,
pop, store from I within memory, or leave memory, the stack and the fault registers as they are. -/
inductive Executed (i : Instr) (s t : State) : Prop where
  | faults (k : FaultKind) (info : Word) (cause : ExecFault s i k info) (ht : t = s.raise k info)
  | pushes (target : Word) (room : s.sp < Config.stackDepth)
      (ht : t = { s with stack := s.pc :: s.stack, pc := target })
  | pops (w : Word) (rest : List Word) (top : s.stack = w :: rest)
      (ht : t = { s with stack := rest, pc := w })
  | stores (bs : List Byte) (fits : s.i.toNat + bs.length ≤ Config.memSize)
      (ht : t = s.storeBytes s.i.toNat bs)
  | keeps (mem : t.mem = s.mem) (stack : t.stack = s.stack) (fault : t.fault = s.fault)
      (info : t.faultInfo = s.faultInfo)

/-- An effect behind the bounds check of R61: the fault, or the effect on a range within memory. -/
theorem executed_checkedFromI {i : Instr} {s e : State}
    (h : rangeOut s.i.toNat (touched i) = false → Executed i s e) :
    Executed i s (s.checkedFromI (touched i) e) := by
  rcases s.checkedFromI_cases (touched i) e with ⟨out, he⟩ | ⟨inside, he⟩ <;> rw [he]
  · exact .faults _ _ (.bounds i out) rfl
  · exact h inside

/-- A store of the bytes an instruction touches, where its range is not out. -/
theorem executed_storeBytes {i : Instr} {s : State} {bs : List Byte} (hl : bs.length = touched i)
    (h0 : 0 < touched i) (inside : rangeOut s.i.toNat (touched i) = false) :
    Executed i s (s.storeBytes s.i.toNat bs) := by
  rw [rangeOut_false] at inside
  exact .stores bs (show _ ≤ 4096 by omega) rfl

/-- Execute does one of these (R105). -/
theorem executed_of_exec {i : Instr} {s t : State} (h : exec i s = .next t) : Executed i s t := by
  cases i with
  | ret =>
    cases h
    rcases s.popIntoPc_cases with ⟨empty, ht⟩ | ⟨w, rest, top, ht⟩
    · exact .faults _ _ (.underflow empty) ht
    · exact .pops w rest top ht
  | call nnn =>
    cases h
    rcases s.pushThenJump_cases s.pc (addrWord nnn) with ⟨full, ht⟩ | ⟨room, ht⟩
    · exact .faults _ _ (.overflow nnn full) ht
    · exact .pushes _ room ht
  | ldB x => cases h; exact executed_checkedFromI (executed_storeBytes rfl (Nat.succ_pos 2))
  | ldStore x =>
    cases h
    exact executed_checkedFromI (executed_storeBytes (s.length_regBytes _) (Nat.succ_pos _))
  | ldLoad x =>
    cases h
    obtain ⟨v, hv⟩ := s.loadRegs_only_v s.i.toNat (blockCount x)
    exact executed_checkedFromI fun _ => hv ▸ .keeps rfl rfl rfl rfl
  | drw x y n => cases h; exact executed_checkedFromI fun _ => .keeps rfl rfl rfl rfl
  | ldVxK x =>
    cases h
    cases lowestKey s.keys <;> exact .keeps rfl rfl rfl rfl
  | seImm | sneImm | seReg | sneReg | skp | sknp =>
    cases h
    exact .keeps (s.skipIf_mem _) (s.skipIf_stack _) (s.skipIf_fault _) (s.skipIf_faultInfo _)
  | _ => cases h; exact .keeps rfl rfl rfl rfl

/-- Execute raises one of its faults and does nothing else, or leaves the fault registers as they are. -/
theorem Executed.fault_cases {i : Instr} {s t : State} (h : Executed i s t) :
    (∃ k info, ExecFault s i k info ∧ t = s.raise k info) ∨
    (t.fault = s.fault ∧ t.faultInfo = s.faultInfo) := by
  cases h with
  | faults k info cause ht => exact .inl ⟨k, info, cause, ht⟩
  | keeps mem stack fault info => exact .inr ⟨fault, info⟩
  | pushes target room ht | pops w rest top ht | stores bs fits ht => subst ht; exact .inr ⟨rfl, rfl⟩

/-! ### PC -/

/-- The key a skip tests is the one its statement names (R134). -/
theorem keyPressed_eq_keyDown (s : State) (x : Reg) : keyPressed s.keys (s.reg x) = keyDown s x := by
  rw [keyPressed, keyDown, BitVec.toNat_setWidth]

/-- PC after Execute on the state after the PC advance, where it raises no fault (R25). -/
theorem exec_pc {i : Instr} {s t : State} (h : exec i s.advancePc = .next t) (hf : t.fault = none) :
    t.pc = pcAfter s i := by
  cases i with
  | jp nnn => cases h; exact (BitVec.ofNat_toNat 16 nnn).symm
  | jpV0 nnn =>
    cases h
    simp [pcAfter, indexedTarget, BitVec.ofNat_add]
  | call nnn =>
    cases h
    rcases s.advancePc.pushThenJump_cases s.advancePc.pc (addrWord nnn) with ⟨_, ht⟩ | ⟨_, ht⟩ <;>
      rw [ht] at hf ⊢
    · cases hf
    · exact (BitVec.ofNat_toNat 16 nnn).symm
  | ret =>
    cases h
    rcases s.advancePc.popIntoPc_cases with ⟨_, ht⟩ | ⟨w, rest, top, ht⟩ <;> rw [ht] at hf ⊢
    · cases hf
    · rw [pcAfter, ← s.advancePc_stack, top, List.headD_cons]
  | seImm | sneImm | seReg | sneReg =>
    cases h
    simp [pcAfter, add_two_add_two]
  | skp | sknp =>
    cases h
    simp [pcAfter, add_two_add_two, keyPressed_eq_keyDown]
  | ldVxK x =>
    cases h
    rw [pcAfter, State.advancePc_keys]
    split
    · next hz => simp [lowestKey_eq_none.mpr hz]
    · next hz =>
      obtain ⟨k, hk⟩ := Option.ne_none_iff_exists'.mp (mt lowestKey_eq_none.mp hz)
      simp [hk]
  | drw | ldB | ldStore => cases h; exact State.checkedFromI_keeps State.pc (fun _ _ => rfl) rfl
  | ldLoad =>
    cases h
    exact State.checkedFromI_keeps State.pc (fun _ _ => rfl) (State.loadRegs_pc _ _ _)
  | _ => cases h; rfl

/-- A fault of Execute leaves PC advanced (R25, R110). -/
theorem exec_pc_of_fault {i : Instr} {s t : State} (h : exec i s = .next t) (hs : s.fault = none)
    (hf : t.fault ≠ none) : t.pc = s.pc := by
  rcases (executed_of_exec h).fault_cases with ⟨k, info, _, rfl⟩ | ⟨hfault, _⟩
  · rfl
  · exact absurd (hfault.trans hs) hf

/-- A step that fetches `i` executes it, on the state after the PC advance (R100 to R105). -/
theorem exec_of_step {i : Instr} {s t : State} (hi : Fetches s i) (h : step s = .next t) :
    ∃ u, exec i s.advancePc = .next u ∧ t = u.endStep := by
  obtain ⟨hs, hpc, hd⟩ := hi
  rcases step_cases s with ⟨hn, _⟩ | ⟨_, hp, _⟩ | ⟨_, _, r, hr, _⟩ | ⟨_, _, j, u, hj, hu, hstep⟩
  · exact absurd hs hn
  · omega
  · cases hd.symm.trans hr
  · cases hd.symm.trans hj
    cases h.symm.trans hstep
    exact ⟨u, hu, rfl⟩

theorem State.raiseReject_pc (s : State) (r : Reject) : (s.raiseReject r).pc = s.pc := by
  cases r <;> rfl

/-- PC after a step that faults in Decode or Execute (R25). -/
theorem step_pc_of_fault {s t : State} (hs : s.fault = none) (hpc : s.pc.toNat ≤ 0x0FFE)
    (h : step s = .next t) (hf : t.fault ≠ none) : t.pc = s.pc + 2#16 := by
  rcases step_cases s with ⟨hn, _⟩ | ⟨_, hp, _⟩ | ⟨_, _, r, _, hstep⟩ | ⟨_, _, i, u, _, hu, hstep⟩
  · exact absurd hs hn
  · omega
  · cases h.symm.trans hstep
    rw [State.endStep_pc, State.raiseReject_pc, State.advancePc_pc]
  · cases h.symm.trans hstep
    rw [State.endStep_fault] at hf
    rw [State.endStep_pc, exec_pc_of_fault hu hs hf, State.advancePc_pc]

/-- PC after a step that faults in Fetch (R25, R102). -/
theorem step_pc_of_fetch_fault {s t : State} (hs : s.fault = none) (hpc : 0x0FFE < s.pc.toNat)
    (h : step s = .next t) : t.pc = s.pc := by
  rcases step_cases s with ⟨hn, _⟩ | ⟨_, _, hstep⟩ | ⟨_, hp, _⟩ | ⟨_, hp, _⟩
  · exact absurd hs hn
  · cases h.symm.trans hstep
    rw [State.endStep_pc, State.raise_pc]
  · omega
  · omega

/-- Settles O18: the table of R25, row by row in `exec_pc`, and its two rows of faults. -/
theorem pcAfterAStepIsTheTables : Obligations.PcAfterAStepIsTheTables := by
  refine ⟨fun s t i hi h hf => ?_, fun s t hs hpc h hf => step_pc_of_fault hs hpc h hf,
    fun s t hs hpc h => step_pc_of_fetch_fault hs hpc h⟩
  obtain ⟨u, hu, rfl⟩ := exec_of_step hi h
  rw [State.endStep_fault] at hf
  rw [State.endStep_pc, exec_pc hu hf]

/-! ### The general registers and VF -/

@[simp] theorem State.showCanvas_reg (s : State) (c : Canvas) (y : Reg) :
    (s.showCanvas c).reg y = if y = Reg.vf then flagByte c.collision else s.reg y :=
  s.reg_setFlag _ y

theorem mem_regsUpTo {x z : Reg} : z ∈ regsUpTo x ↔ z.toNat ≤ x.toNat := by
  simp only [regsUpTo, List.mem_map, List.mem_range]
  constructor
  · rintro ⟨k, hk, rfl⟩
    rw [BitVec.toNat_ofNat]
    have := x.isLt
    omega
  · exact fun h => ⟨z.toNat, by omega, by rw [BitVec.ofNat_toNat, BitVec.setWidth_eq]⟩

/-- Execute keeps every general register that the instruction's rule does not name (R21, R43). -/
theorem exec_keeps_reg {i : Instr} {s t : State} (h : exec i s = .next t) {z : Reg}
    (hz : z ∉ (changes s i).regs) : t.reg z = s.reg z := by
  cases i with
  | ret =>
    cases h
    rcases s.popIntoPc_cases with ⟨_, ht⟩ | ⟨w, rest, _, ht⟩ <;> rw [ht] <;> rfl
  | call nnn =>
    cases h
    rcases s.pushThenJump_cases s.pc (addrWord nnn) with ⟨_, ht⟩ | ⟨_, ht⟩ <;> rw [ht] <;> rfl
  | seImm | sneImm | seReg | sneReg | skp | sknp => cases h; exact s.skipIf_reg _ z
  | ldImm | addImm | ldReg | orReg | andReg | xorReg | rnd | ldVxDT =>
    cases h
    rw [State.reg_setReg, if_neg (by simpa [changes] using hz)]
  | addReg | sub | shr | subn | shl =>
    cases h
    obtain ⟨hx, hvf⟩ : z ≠ _ ∧ z ≠ Reg.vf := by simpa [changes] using hz
    rw [State.reg_writeFlagged, if_neg hx, if_neg hvf]
  | ldVxK x =>
    cases h
    cases lowestKey s.keys with
    | none => rfl
    | some k => rw [State.takeKey_some, State.reg_setReg, if_neg (by simpa [changes] using hz)]
  | drw =>
    cases h
    refine State.checkedFromI_keeps (State.reg · z) (fun _ _ => rfl) ?_
    rw [State.showCanvas_reg, if_neg (by simpa [changes] using hz)]
  | ldB | ldStore => cases h; exact State.checkedFromI_keeps (State.reg · z) (fun _ _ => rfl) rfl
  | ldLoad x =>
    cases h
    refine State.checkedFromI_keeps (State.reg · z) (fun _ _ => rfl) ?_
    have hx : ¬ z.toNat < blockCount x := fun hlt => hz (mem_regsUpTo.mpr (Nat.le_of_lt_succ hlt))
    rw [State.reg_loadRegs s _ (blockCount x) x.isLt, if_neg hx]
  | _ => cases h; rfl

/-- The instructions whose rule names VF as changed are the flag writers and those with VF as their
destination (R22). -/
theorem writes_vf {i : Instr} {s : State} (h : Reg.vf ∈ (changes s i).regs) :
    writesFlag i = true ∨ destination i = some Reg.vf := by
  cases i with
  | addReg | sub | shr | subn | shl | drw => exact .inl rfl
  | ldImm x | addImm x | ldReg x | orReg x | andReg x | xorReg x | rnd x | ldVxDT x | ldVxK x =>
    exact .inr (congrArg some (List.mem_singleton.mp h).symm)
  | ldLoad x =>
    have hle : 15 ≤ x.toNat := mem_regsUpTo.mp h
    have hlt : x.toNat < 16 := x.isLt
    exact .inr (congrArg some (BitVec.eq_of_toNat_eq (show x.toNat = 15 by omega)))
  | _ => cases h

/-- Settles O20: Execute keeps VF unless the instruction's rule names it. -/
theorem vfChangesOnlyWhereTheRulesSay : Obligations.VfChangesOnlyWhereTheRulesSay :=
  fun _ _ _ h hne => writes_vf (not_imp_comm.mp (exec_keeps_reg h) hne)

/-! ### The invariant -/

/-- The invariant depends on memory, PC, the stack and the fault registers only. -/
theorem State.Inv.congr {s t : State} (h : s.Inv) (hmem : t.mem = s.mem) (hpc : t.pc = s.pc)
    (hstack : t.stack = s.stack) (hfault : t.fault = s.fault) (hinfo : t.faultInfo = s.faultInfo) :
    t.Inv := by
  rw [State.Inv, State.faultInfoOk, hmem, hpc, hstack, hfault, hinfo]
  exact h

/-- Taking a fault keeps the invariant where the fault has its information and its cause (R200, R206). -/
theorem State.Inv.raise {s : State} (h : s.Inv) {k : FaultKind} {info : Word}
    (hok : (s.raise k info).faultInfoOk = true) : (s.raise k info).Inv := by
  obtain ⟨hmem, hpc, hlen, hall, -⟩ := h
  exact ⟨hmem, hpc, hlen, hall, hok⟩

theorem State.Inv.endStep {s : State} (h : s.Inv) : s.endStep.Inv :=
  h.congr s.endStep_mem s.endStep_pc s.endStep_stack s.endStep_fault s.endStep_faultInfo

/-- PC after the advance is the return address that a CALL pushes (R26). -/
theorem toNat_advance_le {pc : Word} (h : pc.toNat ≤ 0x0FFE) : (pc + 2#16).toNat ≤ 0x1000 := by
  bv_omega

theorem State.Inv.advancePc {s : State} (h : s.Inv) (hpc : s.pc.toNat ≤ 0x0FFE) : s.advancePc.Inv := by
  obtain ⟨hmem, -, hlen, hall, hinfo⟩ := h
  exact ⟨hmem, (toNat_advance_le hpc).trans (by decide), hlen, hall, hinfo⟩

/-- With no fault latched the fault registers agree iff FAULT_INFO is 0 (R36). -/
theorem State.faultInfoOk_of_running {s : State} (h : s.fault = none) :
    s.faultInfoOk = (s.faultInfo == 0x0000#16) := by
  rw [State.faultInfoOk, h]

/-- A newest entry that is popped is a return address, and 0 stands for that of an empty stack. -/
theorem toNat_headD_le {l : List Word} (h : (l.all fun w => decide (w.toNat ≤ 0x1000)) = true) :
    (l.headD 0#16).toNat ≤ 0x1000 := by
  cases l with
  | nil => exact Nat.zero_le _
  | cons w rest => simpa using (List.all_eq_true.mp h) w List.mem_cons_self

/-- PC's range after a step with no fault: a skip goes to at most 0x1002, JP V0 to 0x10FE (R26). -/
theorem toNat_pcAfter_le {s : State} (i : Instr) (hpc : s.pc.toNat ≤ 0x0FFE)
    (hall : (s.stack.all fun w => decide (w.toNat ≤ 0x1000)) = true) : (pcAfter s i).toNat ≤ 0x10FE := by
  have hnext : (s.pc + 2#16).toNat ≤ 0x10FE := (toNat_advance_le hpc).trans (by decide)
  have hskip : (s.pc + 4#16).toNat ≤ 0x10FE := by bv_omega
  cases i with
  | jp nnn | call nnn =>
    have := nnn.isLt
    rw [pcAfter, BitVec.toNat_ofNat]
    omega
  | jpV0 nnn =>
    have := nnn.isLt
    have := (s.reg 0#4).isLt
    rw [pcAfter, BitVec.toNat_ofNat]
    omega
  | ret => exact (toNat_headD_le hall).trans (by decide)
  | seImm | sneImm | seReg | sneReg | skp | sknp =>
    rw [pcAfter]
    split
    · exact hskip
    · exact hnext
  | ldVxK =>
    rw [pcAfter]
    split
    · omega
    · exact hnext
  | _ => exact hnext

/-- The lowest out-of-range address of a range is out of range (R61). -/
theorem le_toNat_lowestOut (w : Word) : 0x1000 ≤ (lowestOut w.toNat).toNat := by
  have := w.isLt
  rw [lowestOut, BitVec.toNat_ofNat]
  omega

/-- The lowest out-of-range address of a fetch is out of range (R102). -/
theorem le_toNat_fetchFault {pc : Word} (h : 0x0FFE < pc.toNat) :
    0x1000 ≤ (if 0x0FFF < pc.toNat then pc else pc + 1#16).toNat := by
  split <;> bv_omega

/-- The fault registers agree after a fault of Execute, on a stack that is not over-deep. -/
theorem ExecFault.faultInfoOk {s : State} {i : Instr} {k : FaultKind} {info : Word}
    (cause : ExecFault s i k info) (hlen : s.stack.length ≤ Config.stackDepth) :
    (s.raise k info).faultInfoOk = true := by
  cases cause with
  | underflow empty => simp [State.faultInfoOk, empty]
  | overflow nnn full => simpa [State.faultInfoOk] using Nat.le_antisymm hlen full
  | bounds i out => exact decide_eq_true (le_toNat_lowestOut s.i)

/-- Execute of a running core, on the state after the PC advance, keeps the invariant. -/
theorem exec_keeps_inv {i : Instr} {s t : State} (hs : s.Inv) (hf : s.fault = none)
    (hpc : s.pc.toNat ≤ 0x0FFE) (h : exec i s.advancePc = .next t) : t.Inv := by
  have hadv := hs.advancePc hpc
  obtain ⟨hmem, -, hlen, hall, hinfo⟩ := hs
  have he := executed_of_exec h
  rcases he.fault_cases with ⟨k, info, cause, rfl⟩ | ⟨hft, hit⟩
  · exact hadv.raise (cause.faultInfoOk hlen)
  have hrun : t.fault = none := hft.trans hf
  have hpct : t.pc.toNat ≤ 0x10FE := exec_pc h hrun ▸ toNat_pcAfter_le i hpc hall
  have hok : t.faultInfoOk = true := by
    rw [State.faultInfoOk_of_running hrun, hit]
    rwa [State.faultInfoOk_of_running hf] at hinfo
  cases he with
  | faults k info cause ht => subst ht; cases hrun
  | pushes target room ht =>
    subst ht
    refine ⟨hmem, hpct, room, ?_, hok⟩
    exact Bool.and_eq_true_iff.mpr ⟨decide_eq_true (toNat_advance_le hpc), hall⟩
  | pops w rest top ht =>
    subst ht
    rw [State.advancePc_stack] at top
    rw [top] at hlen hall
    exact ⟨hmem, hpct, Nat.le_of_succ_le hlen, (Bool.and_eq_true_iff.mp hall).2, hok⟩
  | stores bs fits ht =>
    subst ht
    exact ⟨Memory.wf_setBytes hmem fits, hpct, hlen, hall, hok⟩
  | keeps mem stack fault info =>
    exact ⟨mem ▸ hmem, hpct, stack ▸ hlen, stack ▸ hall, hok⟩

/-- Every step keeps the invariant: the halted step, the two faults outside Execute, and Execute. -/
theorem step_keeps_inv {s t : State} (hs : s.Inv) (h : step s = .next t) : t.Inv := by
  rcases step_cases s with ⟨_, hstep⟩ | ⟨_, hpc, hstep⟩ | ⟨_, hpc, r, hr, hstep⟩ |
    ⟨hf, hpc, i, u, _, hu, hstep⟩ <;> cases h.symm.trans hstep
  · exact hs
  · exact State.Inv.endStep (hs.raise (decide_eq_true (le_toNat_fetchFault hpc)))
  · obtain ⟨rfl, hnone⟩ := decode_pair_reject hr
    exact State.Inv.endStep ((hs.advancePc hpc).raise (Option.isNone_iff_eq_none.mpr hnone))
  · exact (exec_keeps_inv hs hf hpc hu).endStep

/-- Settles O22, by what a step can do (`step_cases`) and what Execute can do (`Executed`). -/
theorem everyStepKeepsTheInvariant : Obligations.EveryStepKeepsTheInvariant :=
  fun _ _ => step_keeps_inv

theorem reset_inv : State.reset.Inv := by decide

theorem hostReset_inv (s : State) : s.hostReset.Inv := reset_inv.congr rfl rfl rfl rfl rfl

/-- Settles O21: the reset values meet the invariant, and it does not read `inputs` and `draws`. -/
theorem resetMeetsTheInvariant : Obligations.ResetMeetsTheInvariant := ⟨reset_inv, hostReset_inv⟩

/-- A load of a program that fits keeps the invariant (R236). -/
theorem State.Inv.load {s : State} (h : s.Inv) {p : List Byte}
    (hp : p.length ≤ 4096 - Config.progBase) : (s.storeBytes Config.progBase p).Inv := by
  obtain ⟨hmem, hrest⟩ := h
  have hfits : Config.progBase + p.length ≤ Config.memSize := by
    simp only [Config.progBase, Config.memSize] at hp ⊢
    omega
  exact ⟨Memory.wf_setBytes hmem hfits, hrest⟩

theorem move_keeps_inv {h h' : Session} {m : HostMove} (hc : h.core.Inv) (hm : h.move m = .next h') :
    h'.core.Inv := by
  rcases Session.move_cases hm with ⟨_, rfl⟩ | ⟨_, rfl⟩ | ⟨p, _, _, rfl⟩ | ⟨p, _, _, hp, rfl⟩ |
    ⟨keys, rnd, _, _, rfl⟩ | ⟨keys, rnd, t, _, _, hstep, rfl⟩
  · exact hostReset_inv h.core
  · exact hc.congr rfl rfl rfl rfl rfl
  · exact hc
  · exact hc.load hp
  · exact hc
  · have hin : (h.core.withInput ⟨keys, rnd⟩).Inv := hc.congr rfl rfl rfl rfl rfl
    exact step_keeps_inv hin hstep

/-- Settles O55, by what a move can do (`Session.move_cases`). -/
theorem everyMoveOfTheHostKeepsTheInvariant : Obligations.EveryMoveOfTheHostKeepsTheInvariant :=
  fun _ _ _ => move_keeps_inv

/-- Settles O23, by induction on the moves that brought the session about. -/
theorem everyReachableSessionMeetsTheInvariant : Obligations.EveryReachableSessionMeetsTheInvariant := by
  intro h hr
  induction hr with
  | reset s => exact hostReset_inv s
  | move m _ hm ih => exact move_keeps_inv ih hm

/-! ### The reset values -/

/-- A byte of the font, in memory with nothing stored (R58, R59). -/
theorem Memory.background_font {k : Nat} (h : k < 80) :
    Memory.background (Config.fontBase + k) = Config.font.getD k 0#8 := by
  rw [Memory.background, if_pos ⟨Nat.le_add_right _ _, Nat.add_lt_add_left h _⟩, Nat.add_sub_cancel_left]

/-- A byte outside the font, in memory with nothing stored (R42). -/
theorem Memory.background_of_outside {a : Nat} (h : a < Config.fontBase ∨ Config.fontBase + 80 ≤ a) :
    Memory.background a = 0#8 := by
  have hlen : Config.font.length = 80 := rfl
  rw [Memory.background, hlen, if_neg (by omega)]

theorem State.reg_reset (x : Reg) : State.reset.reg x = 0#8 := Vector.getElem_replicate _

theorem State.pixel_reset {r c : Nat} (hr : r < 32) (hc : c < 64) : State.reset.pixel r c = false := by
  rw [State.pixel, dif_pos ⟨hr, hc⟩]
  simp [State.reset]

theorem atReset_reset : AtReset State.reset :=
  ⟨fun _ => Memory.background_font, fun _ _ => Memory.background_of_outside, State.reg_reset, rfl, rfl,
    rfl, rfl, rfl, fun _ _ => State.pixel_reset, rfl, rfl, rfl⟩

/-- Settles O8: a host reset of any core gives the elements of `State.reset`, since it keeps only the
model's `inputs` and `draws` (log entry 2). -/
theorem resetGivesTheTableOfResetValues : Obligations.ResetGivesTheTableOfResetValues :=
  ⟨atReset_reset, fun _ => atReset_reset⟩

end Sys2Proof.Machine

/-! ## The family 20_memory.md: the canonical form, the bounds rule, and what stores -/

namespace Sys2Proof.Machine

open Sys2Proof.Claims

/-! ### The canonical form of memory -/

/-- A cell of a memory with rising addresses is what its address reads as (R52). -/
theorem Memory.get_of_mem {m : Memory} (h : m.Pairwise (fun c d => c.1 < d.1)) {e : Host.Cell}
    (he : e ∈ m) : m.get e.1 = e.2 := by
  induction m with
  | nil => cases he
  | cons d m ih =>
    obtain ⟨hd, hm⟩ := List.pairwise_cons.mp h
    rw [Memory.get]
    rcases List.mem_cons.mp he with rfl | he
    · exact if_pos rfl
    · rw [if_neg (hd e he).ne', ih hm he]

/-- The cells of a memory in canonical form, by what it reads as: the bytes that are not as reset left
them (R42, R51). -/
theorem Memory.mem_iff_get {m : Memory} (h : m.wf) (e : Host.Cell) :
    e ∈ m ↔ m.get e.1 = e.2 ∧ e.2 ≠ Memory.background e.1 := by
  obtain ⟨hrising, hcells⟩ := h
  refine ⟨fun he => ⟨Memory.get_of_mem hrising he, (hcells e he).2⟩, fun ⟨hget, hne⟩ => ?_⟩
  by_cases hlisted : ∃ d ∈ m, d.1 = e.1
  · obtain ⟨d, hd, haddr⟩ := hlisted
    have hbyte : d.2 = e.2 := by rw [← hget, ← haddr, Memory.get_of_mem hrising hd]
    exact Prod.ext haddr hbyte ▸ hd
  · have hunlisted : ∀ d ∈ m, d.1 ≠ e.1 := fun d hd haddr => hlisted ⟨d, hd, haddr⟩
    exact absurd (hget ▸ Memory.get_of_not_listed m hunlisted) hne

/-- Settles O9: what a canonical memory reads as determines its cells, and the order of their addresses
determines the list. -/
theorem canonicalMemoriesThatReadAlikeAreEqual :
    Obligations.CanonicalMemoriesThatReadAlikeAreEqual := by
  intro m m' h h' hread
  have hcells : ∀ e, e ∈ m ↔ e ∈ m' := fun e => by
    rw [Memory.mem_iff_get h, Memory.mem_iff_get h', hread]
  obtain ⟨hrising, -⟩ := h
  obtain ⟨hrising', -⟩ := h'
  have : Std.Irrefl (fun c d : Host.Cell => c.1 < d.1) := ⟨fun c => Nat.lt_irrefl c.1⟩
  have : Std.Antisymm (fun c d : Host.Cell => c.1 < d.1) :=
    ⟨fun _ _ hcd hdc => absurd hcd (Nat.lt_asymm hdc)⟩
  exact hrising.eq_of_mem_iff hrising' hcells

/-! ### The bounds rule -/

/-- Execute of each of the four instructions that touch memory from I is an effect behind the bounds check
of its range, and the effect leaves the fault registers as they are (R51, R61). -/
theorem exec_eq_checkedFromI {i : Instr} (s : State) (h : 0 < touched i) :
    ∃ e, exec i s = .next (s.checkedFromI (touched i) e) ∧
      e.fault = s.fault ∧ e.faultInfo = s.faultInfo := by
  cases i with
  | drw | ldB | ldStore => exact ⟨_, rfl, rfl, rfl⟩
  | ldLoad x =>
    obtain ⟨v, hv⟩ := s.loadRegs_only_v s.i.toNat (blockCount x)
    exact ⟨_, rfl, by rw [hv], by rw [hv]⟩
  | _ => cases h

/-- The fault of a range from I that is out is the one the statements name (R61, R204). -/
theorem State.checkedFromI_of_out {s e : State} {len : Nat} (h0 : 0 < len)
    (h : 4095 < s.i.toNat + len - 1) : s.checkedFromI len e = outOfBounds s := by
  rw [State.checkedFromI, if_pos (rangeOut_true.mpr ⟨h0, h⟩)]
  rfl

/-- A range from I that is inside has its effect (R61). -/
theorem State.checkedFromI_of_inside {s e : State} {len : Nat} (h : s.i.toNat + len - 1 ≤ 4095) :
    s.checkedFromI len e = e := by
  rw [State.checkedFromI, rangeOut_false.mpr (.inr h), if_neg Bool.false_ne_true]

/-- The lowest out-of-range address of a fetch that passes 4095 (R61, R102). -/
theorem fetchFault_eq_max {pc : Word} (h : 0x0FFE < pc.toNat) :
    (if 0x0FFF < pc.toNat then pc else pc + 1#16) = BitVec.ofNat 16 (max pc.toNat 4096) := by
  split
  · next hp => rw [Nat.max_eq_left hp, BitVec.ofNat_toNat, BitVec.setWidth_eq]
  · next hp =>
    have hpc : pc = 0x0FFF#16 := BitVec.eq_of_toNat_eq (show pc.toNat = 0x0FFF by omega)
    rw [hpc]
    rfl

/-- A step that faults in Fetch, as one next state (R61, R110; log entry 2). -/
theorem step_of_fetch_out {s : State} (hs : s.fault = none) (hpc : 0x0FFE < s.pc.toNat) :
    step s = .next { outOfBounds s with
      faultInfo := BitVec.ofNat 16 (max s.pc.toNat 4096)
      inputs := s.inputs.tail
      draws := s.draws + 1 } := by
  rcases step_cases s with ⟨hn, _⟩ | ⟨_, _, hstep⟩ | ⟨_, hp, _⟩ | ⟨_, hp, _⟩
  · exact absurd hs hn
  · rw [hstep, fetchFault_eq_max hpc, State.endStep_of_halted (Option.some_ne_none _)]
    rfl
  · omega
  · omega

/-- Settles O43: the fetch by `step_of_fetch_out`, the four instructions by their common shape. -/
theorem outOfRangeAccessHasNoOtherEffect : Obligations.OutOfRangeAccessHasNoOtherEffect := by
  refine ⟨fun s hs hpc => step_of_fetch_out hs (Nat.lt_of_succ_lt_succ hpc), fun i s h0 => ?_⟩
  obtain ⟨e, hexec, hfault, hinfo⟩ := exec_eq_checkedFromI s h0
  refine ⟨fun hout => ?_, fun hin => ⟨e, ?_, hfault, hinfo⟩⟩
  · rw [hexec, State.checkedFromI_of_out h0 hout]
  · rw [hexec, State.checkedFromI_of_inside hin]

/-! ### A store and the fetch after it -/

@[simp] theorem State.endStep_memByte (s : State) (a : Nat) : s.endStep.memByte a = s.memByte a :=
  congrArg (Memory.get · a) s.endStep_mem

@[simp] theorem State.endStep_fetch (s : State) : s.endStep.fetch = s.fetch := by
  simp only [State.fetch, State.endStep_pc, State.endStep_memByte]

/-- A block store within memory, as the state Execute leaves (R164). -/
theorem exec_ldStore_of_inside {s : State} {x : Reg} (h : s.i.toNat + x.toNat ≤ 4095) :
    exec (.ldStore x) s = .next (s.storeBytes s.i.toNat (s.regBytes (blockCount x))) :=
  congrArg Host.Outcome.next (State.checkedFromI_of_inside (len := blockCount x) h)

/-- The byte a block store puts for one of its registers (R55, R164). -/
theorem State.memByte_storeBytes_regBytes (s : State) (a : Nat) {n : Nat} {z : Reg} (h : z.toNat < n) :
    (s.storeBytes a (s.regBytes n)).memByte (a + z.toNat) = s.reg z := by
  rw [State.memByte_storeBytes_at s a _ (by rwa [State.length_regBytes]), State.getElem_regBytes,
    BitVec.ofNat_toNat, BitVec.setWidth_eq]

/-- A fetch where the two bytes of a word are in memory (R102). -/
theorem State.fetch_of_inside {s : State} {a : Nat} (hpc : s.pc.toNat = a) (h : a ≤ 0x0FFE) :
    s.fetch = .bytes (s.memByte a) (s.memByte (a + 1)) := by
  rw [State.fetch, hpc, if_neg (Nat.not_lt.mpr h)]

/-- Settles O44: the step ends with the store made and PC on it, and the fetch reads the two bytes back. -/
theorem storeIsSeenByTheNextFetch : Obligations.StoreIsSeenByTheNextFetch := by
  intro s t x z hi hin hz hpc hstep
  have hx : x.toNat < 16 := x.isLt
  have hnext : (z + 1#4).toNat = z.toNat + 1 := by bv_omega
  have hlo : z.toNat < blockCount x := by rw [blockCount]; omega
  have hhi : (z + 1#4).toNat < blockCount x := by rw [blockCount]; omega
  have hat : (s.pc + 2#16).toNat = s.i.toNat + z.toNat := by bv_omega
  have hrun : s.fault = none := hi.1
  obtain ⟨u, hu, rfl⟩ := exec_of_step hi hstep
  cases (exec_ldStore_of_inside (s := s.advancePc) hin).symm.trans hu
  refine ⟨(State.endStep_fault _).trans hrun, (State.endStep_fetch _).trans ?_⟩
  rw [State.fetch_of_inside hat (by omega), Nat.add_assoc, ← hnext]
  exact congrArg₂ Fetched.bytes (s.advancePc.memByte_storeBytes_regBytes _ hlo)
    (s.advancePc.memByte_storeBytes_regBytes _ hhi)

/-! ### What changes memory -/

@[simp] theorem State.loadRegs_mem (s : State) (a n : Nat) : (s.loadRegs a n).mem = s.mem := by
  obtain ⟨v, hv⟩ := s.loadRegs_only_v a n
  rw [hv]

theorem State.raiseReject_mem (s : State) (r : Reject) : (s.raiseReject r).mem = s.mem := by
  cases r <;> rfl

/-- Execute keeps every byte outside the store that the instruction's rule names (R67). -/
theorem exec_keeps_memByte {i : Instr} {s t : State} (h : exec i s = .next t) {a : Nat}
    (ha : a < (changes s i).storeAt ∨ (changes s i).storeAt + (changes s i).storeLen ≤ a) :
    t.memByte a = s.memByte a := by
  cases i with
  | ldB x =>
    cases h
    exact State.checkedFromI_keeps (State.memByte · a) (fun _ _ => rfl)
      (s.memByte_storeBytes_of_outside ha)
  | ldStore x =>
    cases h
    refine State.checkedFromI_keeps (State.memByte · a) (fun _ _ => rfl)
      (s.memByte_storeBytes_of_outside ?_)
    rwa [State.length_regBytes]
  | ldLoad x =>
    cases h
    exact State.checkedFromI_keeps (State.memByte · a) (fun _ _ => rfl)
      (congrArg (Memory.get · a) (s.loadRegs_mem _ _))
  | drw => cases h; exact State.checkedFromI_keeps (State.memByte · a) (fun _ _ => rfl) rfl
  | ret =>
    cases h
    rcases s.popIntoPc_cases with ⟨_, ht⟩ | ⟨w, rest, _, ht⟩ <;> rw [ht] <;> rfl
  | call nnn =>
    cases h
    rcases s.pushThenJump_cases s.pc (addrWord nnn) with ⟨_, ht⟩ | ⟨_, ht⟩ <;> rw [ht] <;> rfl
  | ldVxK x =>
    cases h
    cases lowestKey s.keys <;> rfl
  | seImm | sneImm | seReg | sneReg | skp | sknp =>
    cases h
    exact congrArg (Memory.get · a) (s.skipIf_mem _)
  | _ => cases h; rfl

/-- A byte that a step changes is one that the instruction it fetches stores to (R62, R67). -/
theorem step_memByte_changed {s t : State} (h : step s = .next t) {a : Nat}
    (hne : t.memByte a ≠ s.memByte a) :
    ∃ i, Fetches s i ∧ (changes s i).storeAt ≤ a ∧
      a < (changes s i).storeAt + (changes s i).storeLen := by
  rcases step_cases s with ⟨_, hstep⟩ | ⟨_, _, hstep⟩ | ⟨_, _, r, _, hstep⟩ |
    ⟨hs, hpc, i, u, hd, hu, hstep⟩ <;> cases h.symm.trans hstep
  · exact absurd rfl hne
  · exact absurd (State.endStep_memByte _ a) hne
  · rw [State.endStep_memByte, State.memByte, State.raiseReject_mem] at hne
    exact absurd rfl hne
  · rw [State.endStep_memByte] at hne
    have hstore := mt (exec_keeps_memByte hu) hne
    rw [not_or, Nat.not_lt, Nat.not_le] at hstore
    exact ⟨i, ⟨hs, hpc, hd⟩, hstore⟩

/-- Settles O54, by what a move can do (`Session.move_cases`) and what a step stores to. -/
theorem hostChangesMemoryOnlyByResetAndLoad : Obligations.HostChangesMemoryOnlyByResetAndLoad := by
  refine ⟨fun h h' keys rnd hm => ?_, fun h h' hm => ?_, fun h h' p hl hm => ?_⟩
  · obtain ⟨hcore, hloadable⟩ := Session.after_eq_next.mp hm
    refine ⟨hloadable, fun a hne => ?_⟩
    rcases h.core.invoke_cases keys rnd with ⟨_, hinv⟩ | ⟨_, hinv⟩
    · rw [Host.Outcome.next.inj (hinv.symm.trans hcore)] at hne
      exact absurd rfl hne
    · exact step_memByte_changed (hinv.symm.trans hcore) hne
  · cases hm
    exact h.core.flushAck_mem
  · rw [Session.move, hl] at hm
    cases hm
    rfl

end Sys2Proof.Machine

/-! ## The family 30_encoding.md: the decoder and the encoder

Everything follows from one fact, `decodeWord_eq_instr_iff`: a word decodes to `i` iff `i` is well formed
and the word with `i`'s ignored bits cleared is `i`'s canonical word. It is proved over the six ways in
which a canonical word stands for fields of a word: the three forms of R84 with no ignored bits, and the
forms with `x`, `y` or `n` ignored. -/

namespace Sys2Proof.Machine

open Sys2Proof.Claims

/-! ### Fields of a masked word -/

/-- A field that a mask keeps whole is the masked word's field. -/
theorem extractLsb'_of_masked {w m v : Word} {start len : Nat} (h : w &&& m = v)
    (hm : m.extractLsb' start len = BitVec.allOnes len) :
    w.extractLsb' start len = v.extractLsb' start len := by
  rw [← h, BitVec.extractLsb'_and, hm, BitVec.and_allOnes]

/-- A field that a mask clears whole is 0 in the masked word. -/
theorem extractLsb'_of_cleared {w m : Word} {start len : Nat} (hm : m.extractLsb' start len = 0#len) :
    (w &&& m).extractLsb' start len = 0#len := by
  rw [BitVec.extractLsb'_and, hm, BitVec.and_zero]

/-- A word is the form of its class nibble and address (R8, R84). -/
theorem formNNN_fields (w : Word) : formNNN (fieldO w) (fieldNNN w) = w := by
  apply BitVec.eq_of_toNat_eq
  rw [toNat_formNNN, toNat_fieldO, toNat_fieldNNN]
  omega

/-- A word is the form of its class nibble, register and immediate (R8, R84). -/
theorem formXKK_fields (w : Word) : formXKK (fieldO w) (fieldX w) (fieldKK w) = w := by
  apply BitVec.eq_of_toNat_eq
  rw [toNat_formXKK, toNat_fieldO, toNat_fieldX, toNat_fieldKK]
  omega

/-- A word is the form of its four nibbles (R8, R84). -/
theorem formXYN_fields (w : Word) : formXYN (fieldO w) (fieldX w) (fieldY w) (fieldN w) = w := by
  apply BitVec.eq_of_toNat_eq
  rw [toNat_formXYN, toNat_fieldO, toNat_fieldX, toNat_fieldY, toNat_fieldN]
  omega

theorem and_not_zero (w : Word) : w &&& ~~~0x0000#16 = w := BitVec.and_allOnes

/-- Clearing `x` (R77). -/
theorem and_not_maskX (w : Word) : w &&& ~~~0x0F00#16 = formXKK (fieldO w) 0#4 (fieldKK w) := by
  rw [← formXKK_fields (w &&& ~~~0x0F00#16)]
  congr 1
  · exact (extractLsb'_of_masked rfl (by decide)).symm
  · exact extractLsb'_of_cleared (by decide)
  · exact (extractLsb'_of_masked rfl (by decide)).symm

/-- Clearing `y` (R77). -/
theorem and_not_maskY (w : Word) :
    w &&& ~~~0x00F0#16 = formXYN (fieldO w) (fieldX w) 0#4 (fieldN w) := by
  rw [← formXYN_fields (w &&& ~~~0x00F0#16)]
  congr 1
  · exact (extractLsb'_of_masked rfl (by decide)).symm
  · exact (extractLsb'_of_masked rfl (by decide)).symm
  · exact extractLsb'_of_cleared (by decide)
  · exact (extractLsb'_of_masked rfl (by decide)).symm

/-- Clearing `n` (R77). -/
theorem and_not_maskN (w : Word) :
    w &&& ~~~0x000F#16 = formXYN (fieldO w) (fieldX w) (fieldY w) 0#4 := by
  rw [← formXYN_fields (w &&& ~~~0x000F#16)]
  congr 1
  · exact (extractLsb'_of_masked rfl (by decide)).symm
  · exact (extractLsb'_of_masked rfl (by decide)).symm
  · exact (extractLsb'_of_masked rfl (by decide)).symm
  · exact extractLsb'_of_cleared (by decide)

/-! ### When a canonical word is a word with its ignored bits cleared -/

section
variable {w : Word} {o n : Nibble} {x y : Reg} {kk : Byte} {nnn : Addr}

theorem formNNN_eq_iff :
    formNNN o nnn = w &&& ~~~0x0000#16 ↔ fieldO w = o ∧ fieldNNN w = nnn := by
  rw [and_not_zero]
  constructor
  · rintro rfl
    exact ⟨fieldO_formNNN _ _, fieldNNN_formNNN _ _⟩
  · rintro ⟨rfl, rfl⟩
    exact formNNN_fields w

theorem formXKK_eq_iff :
    formXKK o x kk = w &&& ~~~0x0000#16 ↔ fieldO w = o ∧ fieldX w = x ∧ fieldKK w = kk := by
  rw [and_not_zero]
  constructor
  · rintro rfl
    exact ⟨fieldO_formXKK _ _ _, fieldX_formXKK _ _ _, fieldKK_formXKK _ _ _⟩
  · rintro ⟨rfl, rfl, rfl⟩
    exact formXKK_fields w

theorem formXYN_eq_iff :
    formXYN o x y n = w &&& ~~~0x0000#16 ↔
      fieldO w = o ∧ fieldX w = x ∧ fieldY w = y ∧ fieldN w = n := by
  rw [and_not_zero]
  constructor
  · rintro rfl
    exact ⟨fieldO_formXYN _ _ _ _, fieldX_formXYN _ _ _ _, fieldY_formXYN _ _ _ _,
      fieldN_formXYN _ _ _ _⟩
  · rintro ⟨rfl, rfl, rfl, rfl⟩
    exact formXYN_fields w

/-- The forms of equal words have equal fields. -/
theorem formXYN_inj {o' n' : Nibble} {x' y' : Reg} :
    formXYN o x y n = formXYN o' x' y' n' ↔ o = o' ∧ x = x' ∧ y = y' ∧ n = n' := by
  rw [← and_not_zero (formXYN o' x' y' n'), formXYN_eq_iff]
  simp [eq_comm]

theorem formXKK_eq_clearX_iff :
    formXKK o 0#4 kk = w &&& ~~~0x0F00#16 ↔ fieldO w = o ∧ fieldKK w = kk := by
  rw [and_not_maskX, ← and_not_zero (formXKK _ _ (fieldKK w)), formXKK_eq_iff]
  simp

theorem formXYN_eq_clearY_iff :
    formXYN o x 0#4 n = w &&& ~~~0x00F0#16 ↔ fieldO w = o ∧ fieldX w = x ∧ fieldN w = n := by
  rw [and_not_maskY, formXYN_inj]
  simp [eq_comm]

theorem formXYN_eq_clearN_iff :
    formXYN o x y 0#4 = w &&& ~~~0x000F#16 ↔ fieldO w = o ∧ fieldX w = x ∧ fieldY w = y := by
  rw [and_not_maskN, formXYN_inj]
  simp [eq_comm]

end

/-! ### What the decoder selects -/

theorem decodeWord_eq_instr {w : Word} {i : Instr} :
    decodeWord w = .instr i ↔ selectInstr w = some i := by
  cases h : selectInstr w <;> simp [decodeWord, h]

theorem decodeWord_of_none {w : Word} (h : selectInstr w = none) :
    decodeWord w = .reject (.invalidInstruction w) := by
  simp [decodeWord, h]

/-- The operand of SYS is well formed where the low byte selects neither CLS nor RET (R74). -/
theorem sysOperandOk_fieldNNN {w : Word} :
    sysOperandOk (fieldNNN w) = true ↔ fieldKK w ≠ 0xE0#8 ∧ fieldKK w ≠ 0xEE#8 := by
  have hkk : (fieldNNN w).setWidth 8 = fieldKK w := by
    rw [← fieldKK_formNNN (fieldO w), formNNN_fields]
  simp [sysOperandOk, hkk]

/-- The word `w` spells the instruction `i`: `i` is well formed and its canonical word is `w` with the
ignored bits cleared (R76, R77). `decodeWord_eq_instr_iff` ties it to the decoder. -/
def Spells (w : Word) (i : Instr) : Prop :=
  i.wellFormed = true ∧ encodeWord i = w &&& ~~~ignoredBits i

/-- CLS in the form that has `x` as a field. -/
theorem encodeWord_cls : encodeWord .cls = formXKK 0x0#4 0#4 0xE0#8 := by decide

/-- RET in the form that has `x` as a field. -/
theorem encodeWord_ret : encodeWord .ret = formXKK 0x0#4 0#4 0xEE#8 := by decide

theorem spells_decodeGroup0 {w : Word} (ho : fieldO w = 0x0#4) : Spells w (decodeGroup0 w) := by
  unfold decodeGroup0
  split_ifs with hcls hret
  · exact ⟨rfl, encodeWord_cls.trans (formXKK_eq_clearX_iff.mpr ⟨ho, hcls⟩)⟩
  · exact ⟨rfl, encodeWord_ret.trans (formXKK_eq_clearX_iff.mpr ⟨ho, hret⟩)⟩
  · exact ⟨sysOperandOk_fieldNNN.mpr ⟨hcls, hret⟩, formNNN_eq_iff.mpr ⟨ho, rfl⟩⟩

theorem spells_of_decodeGroup8 {w : Word} {i : Instr} (ho : fieldO w = 0x8#4)
    (h : decodeGroup8 w = some i) : Spells w i := by
  simp only [decodeGroup8] at h
  split_ifs at h with h0 h1 h2 h3 h4 h5 h6 h7 hE <;> cases h
  · exact ⟨rfl, formXYN_eq_iff.mpr ⟨ho, rfl, rfl, h0⟩⟩
  · exact ⟨rfl, formXYN_eq_iff.mpr ⟨ho, rfl, rfl, h1⟩⟩
  · exact ⟨rfl, formXYN_eq_iff.mpr ⟨ho, rfl, rfl, h2⟩⟩
  · exact ⟨rfl, formXYN_eq_iff.mpr ⟨ho, rfl, rfl, h3⟩⟩
  · exact ⟨rfl, formXYN_eq_iff.mpr ⟨ho, rfl, rfl, h4⟩⟩
  · exact ⟨rfl, formXYN_eq_iff.mpr ⟨ho, rfl, rfl, h5⟩⟩
  · exact ⟨rfl, formXYN_eq_clearY_iff.mpr ⟨ho, rfl, h6⟩⟩
  · exact ⟨rfl, formXYN_eq_iff.mpr ⟨ho, rfl, rfl, h7⟩⟩
  · exact ⟨rfl, formXYN_eq_clearY_iff.mpr ⟨ho, rfl, hE⟩⟩

theorem spells_of_decodeGroupE {w : Word} {i : Instr} (ho : fieldO w = 0xE#4)
    (h : decodeGroupE w = some i) : Spells w i := by
  unfold decodeGroupE at h
  split_ifs at h with hkk hkk <;> cases h <;> exact ⟨rfl, formXKK_eq_iff.mpr ⟨ho, rfl, hkk⟩⟩

theorem spells_of_decodeGroupF {w : Word} {i : Instr} (ho : fieldO w = 0xF#4)
    (h : decodeGroupF w = some i) : Spells w i := by
  simp only [decodeGroupF] at h
  split_ifs at h with hkk hkk hkk hkk hkk hkk hkk hkk hkk <;> cases h <;>
    exact ⟨rfl, formXKK_eq_iff.mpr ⟨ho, rfl, hkk⟩⟩

/-- A word spells the instruction that the decoder selects for it. -/
theorem spells_of_selectInstr {w : Word} {i : Instr} (h : selectInstr w = some i) : Spells w i := by
  unfold selectInstr at h
  rcases ite_eq_iff.mp h with ⟨ho, h⟩ | ⟨_, h⟩
  · cases h; exact spells_decodeGroup0 ho
  rcases ite_eq_iff.mp h with ⟨ho, h⟩ | ⟨_, h⟩
  · cases h; exact ⟨rfl, formNNN_eq_iff.mpr ⟨ho, rfl⟩⟩
  rcases ite_eq_iff.mp h with ⟨ho, h⟩ | ⟨_, h⟩
  · cases h; exact ⟨rfl, formNNN_eq_iff.mpr ⟨ho, rfl⟩⟩
  rcases ite_eq_iff.mp h with ⟨ho, h⟩ | ⟨_, h⟩
  · cases h; exact ⟨rfl, formXKK_eq_iff.mpr ⟨ho, rfl, rfl⟩⟩
  rcases ite_eq_iff.mp h with ⟨ho, h⟩ | ⟨_, h⟩
  · cases h; exact ⟨rfl, formXKK_eq_iff.mpr ⟨ho, rfl, rfl⟩⟩
  rcases ite_eq_iff.mp h with ⟨ho, h⟩ | ⟨_, h⟩
  · cases h; exact ⟨rfl, formXYN_eq_clearN_iff.mpr ⟨ho, rfl, rfl⟩⟩
  rcases ite_eq_iff.mp h with ⟨ho, h⟩ | ⟨_, h⟩
  · cases h; exact ⟨rfl, formXKK_eq_iff.mpr ⟨ho, rfl, rfl⟩⟩
  rcases ite_eq_iff.mp h with ⟨ho, h⟩ | ⟨_, h⟩
  · cases h; exact ⟨rfl, formXKK_eq_iff.mpr ⟨ho, rfl, rfl⟩⟩
  rcases ite_eq_iff.mp h with ⟨ho, h⟩ | ⟨_, h⟩
  · exact spells_of_decodeGroup8 ho h
  rcases ite_eq_iff.mp h with ⟨ho, h⟩ | ⟨_, h⟩
  · cases h; exact ⟨rfl, formXYN_eq_clearN_iff.mpr ⟨ho, rfl, rfl⟩⟩
  rcases ite_eq_iff.mp h with ⟨ho, h⟩ | ⟨_, h⟩
  · cases h; exact ⟨rfl, formNNN_eq_iff.mpr ⟨ho, rfl⟩⟩
  rcases ite_eq_iff.mp h with ⟨ho, h⟩ | ⟨_, h⟩
  · cases h; exact ⟨rfl, formNNN_eq_iff.mpr ⟨ho, rfl⟩⟩
  rcases ite_eq_iff.mp h with ⟨ho, h⟩ | ⟨_, h⟩
  · cases h; exact ⟨rfl, formXKK_eq_iff.mpr ⟨ho, rfl, rfl⟩⟩
  rcases ite_eq_iff.mp h with ⟨ho, h⟩ | ⟨_, h⟩
  · cases h; exact ⟨rfl, formXYN_eq_iff.mpr ⟨ho, rfl, rfl, rfl⟩⟩
  rcases ite_eq_iff.mp h with ⟨ho, h⟩ | ⟨_, h⟩
  · exact spells_of_decodeGroupE ho h
  · exact spells_of_decodeGroupF (by bv_omega) h

/-- The decoder selects the instruction that a word spells. -/
theorem selectInstr_of_spells {w : Word} {i : Instr} (h : Spells w i) : selectInstr w = some i := by
  obtain ⟨hwf, hw⟩ := h
  cases i with
  | cls =>
    obtain ⟨ho, hkk⟩ := formXKK_eq_clearX_iff.mp (encodeWord_cls.symm.trans hw)
    simp [selectInstr, decodeGroup0, ho, hkk]
  | ret =>
    obtain ⟨ho, hkk⟩ := formXKK_eq_clearX_iff.mp (encodeWord_ret.symm.trans hw)
    simp [selectInstr, decodeGroup0, ho, hkk]
  | sys nnn =>
    obtain ⟨ho, rfl⟩ := formNNN_eq_iff.mp hw
    obtain ⟨hcls, hret⟩ := sysOperandOk_fieldNNN.mp hwf
    simp [selectInstr, decodeGroup0, ho, hcls, hret]
  | jp | call | ldI | jpV0 =>
    obtain ⟨ho, rfl⟩ := formNNN_eq_iff.mp hw
    simp [selectInstr, ho]
  | seImm | sneImm | ldImm | addImm | rnd =>
    obtain ⟨ho, rfl, rfl⟩ := formXKK_eq_iff.mp hw
    simp [selectInstr, ho]
  | seReg | sneReg =>
    obtain ⟨ho, rfl, rfl⟩ := formXYN_eq_clearN_iff.mp hw
    simp [selectInstr, ho]
  | drw =>
    obtain ⟨ho, rfl, rfl, rfl⟩ := formXYN_eq_iff.mp hw
    simp [selectInstr, ho]
  | ldReg | orReg | andReg | xorReg | addReg | sub | subn =>
    obtain ⟨ho, rfl, rfl, hn⟩ := formXYN_eq_iff.mp hw
    simp [selectInstr, decodeGroup8, ho, hn]
  | shr | shl =>
    obtain ⟨ho, rfl, hn⟩ := formXYN_eq_clearY_iff.mp hw
    simp [selectInstr, decodeGroup8, ho, hn]
  | skp | sknp =>
    obtain ⟨ho, rfl, hkk⟩ := formXKK_eq_iff.mp hw
    simp [selectInstr, decodeGroupE, ho, hkk]
  | ldVxDT | ldVxK | ldDTVx | ldSTVx | addI | ldF | ldB | ldStore | ldLoad =>
    obtain ⟨ho, rfl, hkk⟩ := formXKK_eq_iff.mp hw
    simp [selectInstr, decodeGroupF, ho, hkk]

/-- A word decodes to the instruction it spells and to no other (R76, R77). -/
theorem decodeWord_eq_instr_iff {w : Word} {i : Instr} : decodeWord w = .instr i ↔ Spells w i :=
  decodeWord_eq_instr.trans ⟨spells_of_selectInstr, selectInstr_of_spells⟩

/-! ### Decoding the encoding -/

/-- The ignored bits of a canonical word are 0 (R84). -/
theorem encodeWord_and_not_ignoredBits (i : Instr) : encodeWord i &&& ~~~ignoredBits i = encodeWord i := by
  cases i with
  | cls | ret => rfl
  | seReg | sneReg => exact (formXYN_eq_clearN_iff.mpr (by simp [encodeWord])).symm
  | shr | shl => exact (formXYN_eq_clearY_iff.mpr (by simp [encodeWord])).symm
  | _ => exact and_not_zero _

/-- The canonical word of a well-formed instruction spells it. -/
theorem spells_encodeWord {i : Instr} (h : i.wellFormed = true) : Spells (encodeWord i) i :=
  ⟨h, (encodeWord_and_not_ignoredBits i).symm⟩

/-- The decoder reads the canonical word from the head of the bytes (R70, R84). -/
theorem decode_encode_append (i : Instr) (rest : List Byte) :
    decode (encode i ++ rest) = decodeWord (encodeWord i) :=
  congrArg decodeWord (wordOfBytes_bytesOfWord (encodeWord i))

/-- Settles O1: the bytes read give the canonical word, which spells its instruction. -/
theorem decodeOfEncode : Obligations.DecodeOfEncode := fun i rest h =>
  (decode_encode_append i rest).trans (decodeWord_eq_instr_iff.mpr (spells_encodeWord h))

/-- Settles O2, which is one direction of `decodeWord_eq_instr_iff`. -/
theorem encodeOfDecodeClearsIgnoredBits : Obligations.EncodeOfDecodeClearsIgnoredBits := fun _ _ =>
  decodeWord_eq_instr_iff.mp

/-- Settles O5: two words spell `i` iff both are its canonical word but for the ignored bits. -/
theorem ignoredFieldsHaveNoEffect : Obligations.IgnoredFieldsHaveNoEffect := by
  refine ⟨fun w w' i h => ?_, fun _ _ _ => rfl⟩
  obtain ⟨hwf, hw⟩ := decodeWord_eq_instr_iff.mp h
  rw [decodeWord_eq_instr_iff, Spells, and_iff_right hwf, ← hw, eq_comm]

/-! ### The rows of the opcode map -/

theorem xOf_eq_fieldX (w : Word) : xOf w = fieldX w :=
  BitVec.eq_of_toNat_eq (toNat_fieldX w).symm

theorem yOf_eq_fieldY (w : Word) : yOf w = fieldY w :=
  BitVec.eq_of_toNat_eq (toNat_fieldY w).symm

theorem nOf_eq_fieldN (w : Word) : nOf w = fieldN w :=
  BitVec.eq_of_toNat_eq (toNat_fieldN w).symm

theorem kkOf_eq_fieldKK (w : Word) : kkOf w = fieldKK w :=
  BitVec.eq_of_toNat_eq (toNat_fieldKK w).symm

theorem nnnOf_eq_fieldNNN (w : Word) : nnnOf w = fieldNNN w :=
  BitVec.eq_of_toNat_eq (toNat_fieldNNN w).symm

/-- The class nibble of a word of a row with the mask `F000` (R76). -/
theorem fieldO_of_row {w v : Word} (h : w &&& 0xF000#16 = v) : fieldO w = fieldO v :=
  extractLsb'_of_masked h (by decide)

/-- The class nibble and `n` of a word of a row with the mask `F00F` (R76). -/
theorem fieldO_fieldN_of_row {w v : Word} (h : w &&& 0xF00F#16 = v) :
    fieldO w = fieldO v ∧ fieldN w = fieldN v :=
  ⟨extractLsb'_of_masked h (by decide), extractLsb'_of_masked h (by decide)⟩

/-- The class nibble and `kk` of a word of a row with the mask `F0FF` (R76). -/
theorem fieldO_fieldKK_of_row {w v : Word} (h : w &&& 0xF0FF#16 = v) :
    fieldO w = fieldO v ∧ fieldKK w = fieldKK v :=
  ⟨extractLsb'_of_masked h (by decide), extractLsb'_of_masked h (by decide)⟩

section
variable {w : Word} {o n : Nibble} {kk : Byte}

theorem formNNN_of_row (h : w &&& 0xF000#16 = formNNN o 0#12) :
    formNNN o (nnnOf w) = w &&& ~~~0x0000#16 :=
  formNNN_eq_iff.mpr ⟨(fieldO_of_row h).trans (fieldO_formNNN _ _), (nnnOf_eq_fieldNNN w).symm⟩

theorem formXKK_of_row (h : w &&& 0xF000#16 = formNNN o 0#12) :
    formXKK o (xOf w) (kkOf w) = w &&& ~~~0x0000#16 :=
  formXKK_eq_iff.mpr ⟨(fieldO_of_row h).trans (fieldO_formNNN _ _), (xOf_eq_fieldX w).symm,
    (kkOf_eq_fieldKK w).symm⟩

theorem formXYN_of_row (h : w &&& 0xF000#16 = formNNN o 0#12) :
    formXYN o (xOf w) (yOf w) (nOf w) = w &&& ~~~0x0000#16 :=
  formXYN_eq_iff.mpr ⟨(fieldO_of_row h).trans (fieldO_formNNN _ _), (xOf_eq_fieldX w).symm,
    (yOf_eq_fieldY w).symm, (nOf_eq_fieldN w).symm⟩

theorem formXYN_clearN_of_row (h : w &&& 0xF000#16 = formNNN o 0#12) :
    formXYN o (xOf w) (yOf w) 0#4 = w &&& ~~~0x000F#16 :=
  formXYN_eq_clearN_iff.mpr ⟨(fieldO_of_row h).trans (fieldO_formNNN _ _), (xOf_eq_fieldX w).symm,
    (yOf_eq_fieldY w).symm⟩

theorem formXYN_of_row_n (h : w &&& 0xF00F#16 = formXYN o 0#4 0#4 n) :
    formXYN o (xOf w) (yOf w) n = w &&& ~~~0x0000#16 := by
  obtain ⟨ho, hn⟩ := fieldO_fieldN_of_row h
  exact formXYN_eq_iff.mpr ⟨ho.trans (fieldO_formXYN _ _ _ _), (xOf_eq_fieldX w).symm,
    (yOf_eq_fieldY w).symm, hn.trans (fieldN_formXYN _ _ _ _)⟩

theorem formXYN_clearY_of_row_n (h : w &&& 0xF00F#16 = formXYN o 0#4 0#4 n) :
    formXYN o (xOf w) 0#4 n = w &&& ~~~0x00F0#16 := by
  obtain ⟨ho, hn⟩ := fieldO_fieldN_of_row h
  exact formXYN_eq_clearY_iff.mpr ⟨ho.trans (fieldO_formXYN _ _ _ _), (xOf_eq_fieldX w).symm,
    hn.trans (fieldN_formXYN _ _ _ _)⟩

theorem formXKK_of_row_kk (h : w &&& 0xF0FF#16 = formXKK o 0#4 kk) :
    formXKK o (xOf w) kk = w &&& ~~~0x0000#16 := by
  obtain ⟨ho, hkk⟩ := fieldO_fieldKK_of_row h
  exact formXKK_eq_iff.mpr ⟨ho.trans (fieldO_formXKK _ _ _), (xOf_eq_fieldX w).symm,
    hkk.trans (fieldKK_formXKK _ _ _)⟩

end

/-- A low byte that differs by division is another `kk` (R8). -/
theorem fieldKK_ne_of_toNat {w : Word} {b : Byte} (h : w.toNat % 256 ≠ b.toNat) : fieldKK w ≠ b :=
  fun hb => h (hb ▸ (toNat_fieldKK w).symm)

/-- The row of SYS, with its remainder condition (R74, R76). -/
theorem spells_sys_of_row {w : Word} (h : w &&& 0xF000#16 = 0x0000#16) (hcls : w.toNat % 256 ≠ 0xE0)
    (hret : w.toNat % 256 ≠ 0xEE) : Spells w (.sys (nnnOf w)) := by
  refine ⟨?_, formNNN_of_row h⟩
  rw [nnnOf_eq_fieldNNN]
  exact sysOperandOk_fieldNNN.mpr ⟨fieldKK_ne_of_toNat hcls, fieldKK_ne_of_toNat hret⟩

/-- Settles O3: a word of a row spells the row's instruction, by the form of the row. -/
theorem opcodeMapRowsDecode : Obligations.OpcodeMapRowsDecode := fun w => by
  simp only [decodeWord_eq_instr_iff]
  exact ⟨spells_sys_of_row,
    fun h => ⟨rfl, h.symm⟩,
    fun h => ⟨rfl, h.symm⟩,
    fun h => ⟨rfl, formNNN_of_row h⟩,
    fun h => ⟨rfl, formNNN_of_row h⟩,
    fun h => ⟨rfl, formXKK_of_row h⟩,
    fun h => ⟨rfl, formXKK_of_row h⟩,
    fun h => ⟨rfl, formXYN_clearN_of_row h⟩,
    fun h => ⟨rfl, formXKK_of_row h⟩,
    fun h => ⟨rfl, formXKK_of_row h⟩,
    fun h => ⟨rfl, formXYN_of_row_n h⟩,
    fun h => ⟨rfl, formXYN_of_row_n h⟩,
    fun h => ⟨rfl, formXYN_of_row_n h⟩,
    fun h => ⟨rfl, formXYN_of_row_n h⟩,
    fun h => ⟨rfl, formXYN_of_row_n h⟩,
    fun h => ⟨rfl, formXYN_of_row_n h⟩,
    fun h => ⟨rfl, formXYN_clearY_of_row_n h⟩,
    fun h => ⟨rfl, formXYN_of_row_n h⟩,
    fun h => ⟨rfl, formXYN_clearY_of_row_n h⟩,
    fun h => ⟨rfl, formXYN_clearN_of_row h⟩,
    fun h => ⟨rfl, formNNN_of_row h⟩,
    fun h => ⟨rfl, formNNN_of_row h⟩,
    fun h => ⟨rfl, formXKK_of_row h⟩,
    fun h => ⟨rfl, formXYN_of_row h⟩,
    fun h => ⟨rfl, formXKK_of_row_kk h⟩,
    fun h => ⟨rfl, formXKK_of_row_kk h⟩,
    fun h => ⟨rfl, formXKK_of_row_kk h⟩,
    fun h => ⟨rfl, formXKK_of_row_kk h⟩,
    fun h => ⟨rfl, formXKK_of_row_kk h⟩,
    fun h => ⟨rfl, formXKK_of_row_kk h⟩,
    fun h => ⟨rfl, formXKK_of_row_kk h⟩,
    fun h => ⟨rfl, formXKK_of_row_kk h⟩,
    fun h => ⟨rfl, formXKK_of_row_kk h⟩,
    fun h => ⟨rfl, formXKK_of_row_kk h⟩,
    fun h => ⟨rfl, formXKK_of_row_kk h⟩⟩

/-! ### The illegal words -/

/-- The sub-opcodes group 8 does not recognise (R78). -/
theorem decodeGroup8_eq_none_iff {w : Word} :
    decodeGroup8 w = none ↔ w.toNat % 16 ∈ [0x8, 0x9, 0xA, 0xB, 0xC, 0xD, 0xF] := by
  have hn : ∀ n : Nibble, n ∉ [0x0#4, 0x1#4, 0x2#4, 0x3#4, 0x4#4, 0x5#4, 0x6#4, 0x7#4, 0xE#4] ↔
      n.toNat ∈ [0x8, 0x9, 0xA, 0xB, 0xC, 0xD, 0xF] := by decide
  rw [← toNat_fieldN, ← hn]
  simp [decodeGroup8, ite_eq_iff]

/-- The sub-opcodes group E does not recognise (R78). -/
theorem decodeGroupE_eq_none_iff {w : Word} :
    decodeGroupE w = none ↔ w.toNat % 256 ∉ [0x9E, 0xA1] := by
  rw [← toNat_fieldKK]
  simp [decodeGroupE, ite_eq_iff, ← BitVec.toNat_inj]

/-- The sub-opcodes group F does not recognise (R78). -/
theorem decodeGroupF_eq_none_iff {w : Word} :
    decodeGroupF w = none ↔
      w.toNat % 256 ∉ [0x07, 0x0A, 0x15, 0x18, 0x1E, 0x29, 0x33, 0x55, 0x65] := by
  rw [← toNat_fieldKK]
  simp [decodeGroupF, ite_eq_iff, ← BitVec.toNat_inj]

/-- Only the groups 8, E and F have words that are no instruction (R78). -/
theorem selectInstr_eq_none_iff {w : Word} :
    selectInstr w = none ↔
      (fieldO w = 0x8#4 ∧ decodeGroup8 w = none) ∨ (fieldO w = 0xE#4 ∧ decodeGroupE w = none) ∨
      (fieldO w = 0xF#4 ∧ decodeGroupF w = none) := by
  constructor
  · intro h
    simp only [selectInstr, ite_eq_iff, reduceCtorEq, and_false, false_or] at h
    obtain ⟨_, _, _, _, _, _, _, _, h8 | ⟨_, _, _, _, _, _, hE | ⟨_, hF⟩⟩⟩ := h
    · exact .inl h8
    · exact .inr (.inl hE)
    · exact .inr (.inr ⟨by bv_omega, hF⟩)
  · rintro (⟨ho, h⟩ | ⟨ho, h⟩ | ⟨ho, h⟩) <;> simp [selectInstr, ho, h]

theorem fieldO_eq_iff {w : Word} {o : Nibble} : fieldO w = o ↔ w.toNat / 4096 = o.toNat := by
  rw [← BitVec.toNat_inj, toNat_fieldO]

/-- The decoder selects nothing for the illegal words and for no others (R78). -/
theorem selectInstr_eq_none_iff_illegal {w : Word} : selectInstr w = none ↔ Illegal w := by
  rw [selectInstr_eq_none_iff, fieldO_eq_iff, fieldO_eq_iff, fieldO_eq_iff, decodeGroup8_eq_none_iff,
    decodeGroupE_eq_none_iff, decodeGroupF_eq_none_iff]
  rfl

/-- Settles O4, by what the decoder selects nothing for (`selectInstr_eq_none_iff_illegal`). -/
theorem illegalWordsAreExactlyTheRejected : Obligations.IllegalWordsAreExactlyTheRejected := by
  refine fun w => ⟨fun h => decodeWord_of_none (selectInstr_eq_none_iff_illegal.mpr h), fun h => ?_⟩
  obtain ⟨i, hi⟩ := Option.ne_none_iff_exists'.mp (mt selectInstr_eq_none_iff_illegal.mp h)
  exact ⟨i, decodeWord_eq_instr.mpr hi⟩

/-! ### The canonical words as numbers -/

/-- The bytes of a word by division, the high byte first (R54). -/
theorem bytesOfWord_eq (w : Word) :
    bytesOfWord w = [BitVec.ofNat 8 (w.toNat / 256), BitVec.ofNat 8 w.toNat] := by
  simp [bytesOfWord, BitVec.extractLsb', Nat.shiftRight_eq_div_pow]

/-- The `oxyn` form with `o` and `n` as one number, the opcode of a row (R76). -/
theorem toNat_formXYN_opcode (o : Nibble) (x y : Reg) (n : Nibble) :
    (formXYN o x y n).toNat = (o.toNat * 4096 + n.toNat) + x.toNat * 256 + y.toNat * 16 := by
  rw [toNat_formXYN]
  omega

/-- The `oxyn` form of a row that ignores `y` (R76). -/
theorem toNat_formXYN_zeroY_opcode (o : Nibble) (x : Reg) (n : Nibble) :
    (formXYN o x 0#4 n).toNat = (o.toNat * 4096 + n.toNat) + x.toNat * 256 := by
  rw [toNat_formXYN_opcode, BitVec.toNat_zero, Nat.zero_mul, Nat.add_zero]

/-- The `oxkk` form with `o` and `kk` as one number, the opcode of a row (R76). -/
theorem toNat_formXKK_opcode (o : Nibble) (x : Reg) (kk : Byte) :
    (formXKK o x kk).toNat = (o.toNat * 4096 + kk.toNat) + x.toNat * 256 := by
  rw [toNat_formXKK]
  omega

/-- Settles O6: the forms as numbers, and the bytes of a word. -/
theorem canonicalWordsAreThoseOfTheMap : Obligations.CanonicalWordsAreThoseOfTheMap := fun x y n kk nnn i =>
  ⟨rfl, rfl, toNat_formNNN _ _, toNat_formNNN _ _, toNat_formNNN _ _,
    toNat_formXKK _ _ _, toNat_formXKK _ _ _, toNat_formXYN_opcode _ _ _ _, toNat_formXKK _ _ _,
    toNat_formXKK _ _ _, toNat_formXYN_opcode _ _ _ _, toNat_formXYN_opcode _ _ _ _,
    toNat_formXYN_opcode _ _ _ _, toNat_formXYN_opcode _ _ _ _, toNat_formXYN_opcode _ _ _ _,
    toNat_formXYN_opcode _ _ _ _, toNat_formXYN_zeroY_opcode _ _ _, toNat_formXYN_opcode _ _ _ _,
    toNat_formXYN_zeroY_opcode _ _ _, toNat_formXYN_opcode _ _ _ _,
    toNat_formNNN _ _, toNat_formNNN _ _, toNat_formXKK _ _ _,
    toNat_formXYN _ _ _ _, toNat_formXKK_opcode _ _ _, toNat_formXKK_opcode _ _ _,
    toNat_formXKK_opcode _ _ _, toNat_formXKK_opcode _ _ _, toNat_formXKK_opcode _ _ _,
    toNat_formXKK_opcode _ _ _, toNat_formXKK_opcode _ _ _, toNat_formXKK_opcode _ _ _,
    toNat_formXKK_opcode _ _ _, toNat_formXKK_opcode _ _ _, toNat_formXKK_opcode _ _ _,
    bytesOfWord_eq _, by decide, by decide, by decide⟩

/-- Settles O7: each word's bytes are decoded. -/
theorem wordsOfTheSpecDecode : Obligations.WordsOfTheSpecDecode := by
  unfold Obligations.WordsOfTheSpecDecode
  decide

end Sys2Proof.Machine

/-! ## The family 40_cycle.md: the step, its faults, the timers, and what Execute changes and reads -/

namespace Sys2Proof.Machine

open Sys2Proof.Claims

/-! ### The step as a whole -/

/-- A step answers a next state (R100, R111). -/
theorem step_answers (s : State) : ∃ t, step s = .next t := by
  rcases step_cases s with ⟨_, h⟩ | ⟨_, _, h⟩ | ⟨_, _, _, _, h⟩ | ⟨_, _, _, _, _, _, h⟩ <;>
    exact ⟨_, h⟩

/-- Settles O15, by what a step can do (`step_cases`). -/
theorem stepAlwaysAnswersANextState : Obligations.StepAlwaysAnswersANextState := step_answers

/-- Settles O10: the step answers, and what it answers is Execute of the fetched instruction. -/
theorem stepRunsTheDecodedInstruction : Obligations.StepRunsTheDecodedInstruction := by
  intro s i hi
  obtain ⟨t, ht⟩ := step_answers s
  obtain ⟨u, hu, rfl⟩ := exec_of_step hi ht
  have hexec : exec i (s.setPc (s.pc + 2#16)) = .next u := hu
  rw [ht, hexec]

/-- The step of a halted core is the identity (R101). -/
theorem step_of_halted {s : State} (h : s.fault ≠ none) : step s = .next s := by
  rcases step_cases s with ⟨_, hstep⟩ | ⟨hs, _⟩ | ⟨hs, _⟩ | ⟨hs, _⟩
  · exact hstep
  all_goals exact absurd hs h

/-- A move of the host other than reset leaves the FAULT of a halted core as it is (R101). -/
theorem move_keeps_fault {h h' : Session} {m : HostMove} (hf : h.core.fault ≠ none)
    (hne : m ≠ .reset) (hm : h.move m = .next h') : h'.core.fault = h.core.fault := by
  rcases Session.move_cases hm with ⟨hr, _⟩ | ⟨_, rfl⟩ | ⟨_, _, _, rfl⟩ | ⟨_, _, _, _, rfl⟩ |
    ⟨_, _, _, _, rfl⟩ | ⟨_, _, _, _, hrun, _⟩
  · exact absurd hr hne
  · exact h.core.flushAck_fault
  · rfl
  · exact h.core.storeBytes_fault _ _
  · rfl
  · exact absurd hrun hf

/-- Settles O11, by the halted step, the moves (`Session.move_cases`) and the reset value of FAULT. -/
theorem haltedCoreStaysUntilReset : Obligations.HaltedCoreStaysUntilReset := by
  refine ⟨fun _ => step_of_halted, fun _ _ _ => move_keeps_fault, fun h h' hm => ?_⟩
  cases hm
  rfl

/-! ### Faulting steps -/

/-- The end of a step that raised a fault uses up the step's inputs and does nothing else (R110). -/
theorem State.endStep_raise (s : State) (k : FaultKind) (info : Word) :
    (s.raise k info).endStep = (s.raise k info).nextInput :=
  State.endStep_of_halted (Option.some_ne_none k)

/-- A rejected word raises InvalidInstruction (R104, R201). -/
theorem State.raiseReject_eq_raise (s : State) (r : Reject) :
    ∃ info, s.raiseReject r = s.raise .invalidInstruction info := by
  cases r <;> exact ⟨_, rfl⟩

/-- A step that faults after Fetch raises its fault on the state after the PC advance (R103, R110). -/
theorem eq_raise_of_fault {s t : State} (hs : s.fault = none) (hpc : s.pc.toNat ≤ 0x0FFE)
    (h : step s = .next t) (hf : t.fault ≠ none) :
    ∃ k info, t = (s.advancePc.raise k info).nextInput := by
  rcases step_cases s with ⟨hn, _⟩ | ⟨_, hp, _⟩ | ⟨_, _, r, _, hstep⟩ | ⟨_, _, i, u, _, hu, hstep⟩
  · exact absurd hs hn
  · omega
  · cases h.symm.trans hstep
    obtain ⟨info, hr⟩ := s.advancePc.raiseReject_eq_raise r
    exact ⟨_, info, by rw [hr, State.endStep_raise]⟩
  · cases h.symm.trans hstep
    rw [State.endStep_fault] at hf
    rcases (executed_of_exec hu).fault_cases with ⟨k, info, _, rfl⟩ | ⟨hkept, _⟩
    · exact ⟨k, info, State.endStep_raise _ _ _⟩
    · exact absurd (hkept.trans hs) hf

/-- Settles O16: a fault of Fetch is raised before the PC advance, every other one after it. -/
theorem faultingStepHasNoOtherEffect : Obligations.FaultingStepHasNoOtherEffect := by
  intro s t hs h hf
  by_cases hpc : 0x0FFE < s.pc.toNat
  · cases h.symm.trans (step_of_fetch_out hs hpc)
    rw [if_pos hpc]
    rfl
  · obtain ⟨k, info, rfl⟩ := eq_raise_of_fault hs (Nat.le_of_not_lt hpc) h hf
    rw [if_neg hpc]
    rfl

/-- The word of two bytes as a number (R54). -/
theorem toNat_wordOfBytes (hi lo : Byte) : (wordOfBytes hi lo).toNat = hi.toNat * 256 + lo.toNat := by
  have := hi.isLt
  have := lo.isLt
  rw [wordOfBytes, BitVec.toNat_ofNat]
  omega

/-- Settles O12: a fetch within memory gives its two bytes, and one above it faults. -/
theorem fetchReadsTwoBytesOrFaults : Obligations.FetchReadsTwoBytesOrFaults := by
  refine ⟨fun s hpc => ⟨State.fetch_of_inside rfl hpc, toNat_wordOfBytes _ _⟩, fun s hs hpc => ?_⟩
  rw [fetchFault_eq_max hpc]
  exact step_of_fetch_out hs hpc

/-! ### What Execute changes -/

/-- Execute keeps every element that the instruction's rule does not name (R105). -/
theorem exec_frame {i : Instr} {s t : State} (h : exec i s = .next t) : Frame (changes s i) s t := by
  refine ⟨fun _ => exec_keeps_reg h, fun _ => exec_keeps_memByte h, ?_⟩
  cases i with
  | ret =>
    cases h
    rcases s.popIntoPc_cases with ⟨_, ht⟩ | ⟨w, rest, _, ht⟩ <;> simp [ht, changes]
  | call nnn =>
    cases h
    rcases s.pushThenJump_cases s.pc (addrWord nnn) with ⟨_, ht⟩ | ⟨_, ht⟩ <;> simp [ht, changes]
  | seImm | sneImm | seReg | sneReg | skp | sknp =>
    cases h
    rw [s.skipIf_only_pc]
    simp [changes]
  | ldVxK x =>
    cases h
    cases lowestKey s.keys <;> simp [changes]
  | drw | ldB | ldStore =>
    cases h
    rcases s.checkedFromI_cases _ _ with ⟨_, ht⟩ | ⟨_, ht⟩ <;> rw [ht] <;>
      simp [changes, State.showCanvas]
  | ldLoad x =>
    cases h
    obtain ⟨v, hv⟩ := s.loadRegs_only_v s.i.toNat (blockCount x)
    rcases s.checkedFromI_cases (blockCount x) (s.loadRegs s.i.toNat (blockCount x)) with
      ⟨_, ht⟩ | ⟨_, ht⟩ <;> rw [ht] <;> simp [changes, hv]
  | _ =>
    cases h
    simp [changes, State.writeFlagged]

/-! ### What Execute reads of the inputs -/

/-- The state with other inputs to come (R37, R38; log entry 2). -/
def State.setInputs (s : State) (ins : List StepInput) (n : Nat) : State :=
  { s with inputs := ins, draws := n }

section
variable (s : State) (ins : List StepInput) (n : Nat)

theorem State.skipIf_setInputs (c : Bool) :
    (s.setInputs ins n).skipIf c = (s.skipIf c).setInputs ins n := by
  cases c <;> rfl

theorem State.takeKey_setInputs (x : Reg) (k : Option Nat) :
    (s.setInputs ins n).takeKey x k = (s.takeKey x k).setInputs ins n := by
  cases k <;> rfl

theorem State.checkedFromI_setInputs (len : Nat) {e e' : State} (he : e' = e.setInputs ins n) :
    (s.setInputs ins n).checkedFromI len e' = (s.checkedFromI len e).setInputs ins n := by
  unfold State.checkedFromI
  rw [he, apply_ite (State.setInputs · ins n)]
  rfl

theorem State.loadRegs_setInputs (a k : Nat) :
    (s.setInputs ins n).loadRegs a k = (s.loadRegs a k).setInputs ins n := by
  induction k with
  | zero => rfl
  | succ k ih => rw [State.loadRegs, ih]; rfl

theorem State.pushThenJump_setInputs (w target : Word) :
    (s.setInputs ins n).pushThenJump w target = (s.pushThenJump w target).setInputs ins n := by
  unfold State.pushThenJump
  rw [apply_ite (State.setInputs · ins n)]
  rfl

theorem State.popIntoPc_setInputs :
    (s.setInputs ins n).popIntoPc = s.popIntoPc.setInputs ins n := by
  obtain ⟨mem, v, i, pc, _ | ⟨w, rest⟩, _⟩ := s <;> rfl

end

/-- Execute depends on the inputs by KEYS and RNDBYTE only, and only where its rule reads them (R37, R38,
R105). -/
theorem exec_setInputs {i : Instr} {s t : State} {ins : List StepInput} {n : Nat}
    (hkeys : readsKeys i = true → (s.setInputs ins n).keys = s.keys)
    (hrnd : readsRnd i = true → (s.setInputs ins n).rnd = s.rnd) (h : exec i s = .next t) :
    exec i (s.setInputs ins n) = .next (t.setInputs ins n) := by
  cases i with
  | ret => cases h; exact congrArg Host.Outcome.next (s.popIntoPc_setInputs ins n)
  | call nnn => cases h; exact congrArg Host.Outcome.next (s.pushThenJump_setInputs ins n _ _)
  | seImm | sneImm | seReg | sneReg =>
    cases h; exact congrArg Host.Outcome.next (s.skipIf_setInputs ins n _)
  | skp x =>
    cases h
    rw [exec, execSkp, hkeys rfl, s.skipIf_setInputs]
    rfl
  | sknp x =>
    cases h
    rw [exec, execSknp, hkeys rfl, s.skipIf_setInputs]
    rfl
  | ldVxK x =>
    cases h
    rw [exec, execLdVxK, hkeys rfl, s.takeKey_setInputs]
  | rnd x kk =>
    cases h
    rw [exec, execRnd, hrnd rfl]
    rfl
  | drw | ldB | ldStore =>
    cases h
    exact congrArg Host.Outcome.next (s.checkedFromI_setInputs ins n _ rfl)
  | ldLoad x =>
    cases h
    exact congrArg Host.Outcome.next
      (s.checkedFromI_setInputs ins n _ (s.loadRegs_setInputs ins n _ _))
  | _ => cases h; rfl

/-- Settles O19: the frame of Execute, and what it reads of the inputs. -/
theorem executeChangesAndReadsOnlyWhatItsRuleNames :
    Obligations.ExecuteChangesAndReadsOnlyWhatItsRuleNames :=
  ⟨fun _ _ _ => exec_frame, fun _ _ _ _ _ => exec_setInputs⟩

/-! ### The timers -/

/-- A tick goes down by 1 and stays at 0 (R107). -/
theorem tickByte_eq_ticked (b : Byte) : tickByte b = ticked b := by
  rw [tickByte, ticked]
  split <;> bv_omega

/-- The timers after a step with no fault: one tick from what Execute left (R107). -/
theorem State.timers_endStep {s : State} (h : s.fault = none) :
    s.endStep.dt = ticked s.dt ∧ s.endStep.st = ticked s.st := by
  rw [State.endStep_of_running h]
  exact ⟨tickByte_eq_ticked s.dt, tickByte_eq_ticked s.st⟩

/-- Settles O14: one tick from what Execute leaves, which is the old value but in the two loads. -/
theorem timersTickOncePerStep : Obligations.TimersTickOncePerStep := by
  intro s t i hi h hf
  obtain ⟨u, hu, rfl⟩ := exec_of_step hi h
  rw [State.endStep_fault] at hf
  obtain ⟨hdt, hst⟩ := State.timers_endStep hf
  obtain ⟨-, -, -, -, -, keepsDt, keepsSt, -⟩ := exec_frame hu
  rw [hdt, hst]
  cases i with
  | ldDTVx | ldSTVx => cases hu; exact ⟨rfl, rfl⟩
  | _ => exact ⟨congrArg ticked (keepsDt rfl), congrArg ticked (keepsSt rfl)⟩

end Sys2Proof.Machine

/-! ## The family 41_control.md: SYS, RET, JP and CALL -/

namespace Sys2Proof.Machine

open Sys2Proof.Claims

/-! ### The jump targets -/

/-- An address field as a 16-bit word is the same number (R72). -/
theorem toNat_addrWord (nnn : Addr) : (addrWord nnn).toNat = nnn.toNat :=
  BitVec.toNat_setWidth_of_le (by decide)

/-- `nnn + V0` is at most 0x10FE, so the 16-bit sum does not wrap (R124). -/
theorem toNat_indexedTarget (nnn : Addr) (v0 : Byte) :
    (indexedTarget nnn v0).toNat = nnn.toNat + v0.toNat := by
  rw [indexedTarget, BitVec.toNat_add, BitVec.toNat_setWidth_of_le (by decide),
    BitVec.toNat_setWidth_of_le (by decide)]
  omega

/-! ### RET and CALL, on either side of the bounds of the stack -/

/-- RET on a stack that is not empty (R121). -/
theorem exec_ret_of_cons {s : State} {w : Word} {rest : List Word} (top : s.stack = w :: rest) :
    exec .ret s = .next { s with stack := rest, pc := w } := by
  rw [exec, execRet, State.popIntoPc, top]

/-- RET on an empty stack (R202). -/
theorem exec_ret_of_empty {s : State} (empty : s.stack = []) :
    exec .ret s = .next (s.raise .stackUnderflow 0#16) := by
  rw [exec, execRet, State.popIntoPc, empty]

/-- CALL on a stack that is not full (R123). -/
theorem exec_call_of_room {s : State} (nnn : Addr) (room : s.sp < Config.stackDepth) :
    exec (.call nnn) s = .next { s with stack := s.pc :: s.stack, pc := addrWord nnn } := by
  rw [exec, execCall, State.pushThenJump, if_neg (Nat.not_le_of_lt room)]

/-- CALL on a full stack (R203). -/
theorem exec_call_of_full {s : State} (nnn : Addr) (full : Config.stackDepth ≤ s.sp) :
    exec (.call nnn) s = .next (s.raise .stackOverflow 0#16) := by
  rw [exec, execCall, State.pushThenJump, if_pos full]

/-- A push or a pop that completes changes PC and the stack only (R121, R123). -/
theorem frame_stack_pc (s : State) (stack : List Word) (pc : Word) :
    Frame { pc := true, stack := true } s { s with stack := stack, pc := pc } :=
  ⟨fun _ _ => rfl, fun _ _ => rfl, fun _ => rfl, nofun, nofun, fun _ => rfl, fun _ => rfl,
    fun _ => rfl, fun _ => rfl, fun _ => ⟨rfl, rfl⟩, rfl, rfl⟩

/-! ### A CALL and a RET as whole steps -/

/-- The step of a CALL on a stack that is not full (R103, R123). -/
theorem step_call_of_room {s t : State} {nnn : Addr} (hi : Fetches s (.call nnn))
    (room : s.sp < Config.stackDepth) (h : step s = .next t) :
    t.fault = none ∧ t.pc = addrWord nnn ∧ t.stack = (s.pc + 2#16) :: s.stack := by
  obtain ⟨u, hu, rfl⟩ := exec_of_step hi h
  cases (exec_call_of_room (s := s.advancePc) nnn room).symm.trans hu
  rw [State.endStep_fault, State.endStep_pc, State.endStep_stack]
  exact ⟨hi.1, rfl, rfl⟩

/-- The step of a RET on a stack that is not empty (R121). -/
theorem step_ret_of_cons {s t : State} {w : Word} {rest : List Word} (hi : Fetches s .ret)
    (top : s.stack = w :: rest) (h : step s = .next t) :
    t.fault = none ∧ t.pc = w ∧ t.stack = rest := by
  obtain ⟨u, hu, rfl⟩ := exec_of_step hi h
  cases (exec_ret_of_cons (s := s.advancePc) top).symm.trans hu
  rw [State.endStep_fault, State.endStep_pc, State.endStep_stack]
  exact ⟨hi.1, rfl, rfl⟩

/-! ### The statements -/

/-- Settles O28: the entry that the RET pops is the one that the CALL pushed. -/
theorem returnComesBackAfterTheCall : Obligations.ReturnComesBackAfterTheCall := by
  intro s t u v nnn hcall room hst hstack hret huv
  obtain ⟨tfault, tpc, tstack⟩ := step_call_of_room hcall room hst
  obtain ⟨vfault, vpc, vstack⟩ := step_ret_of_cons hret (hstack.trans tstack) huv
  exact ⟨tfault, tpc ▸ toNat_addrWord nnn, vfault, vpc, vstack⟩

/-- Settles O24: Execute of SYS is the identity. -/
theorem sysDoesNothing : Obligations.SysDoesNothing := fun _ _ => rfl

/-- Settles O25, by the two cases of the pop. -/
theorem retPopsIntoPcOrUnderflows : Obligations.RetPopsIntoPcOrUnderflows :=
  ⟨fun s w rest top => ⟨_, exec_ret_of_cons top, rfl, rfl, frame_stack_pc s rest w⟩,
    fun _ empty => exec_ret_of_empty empty⟩

/-- Settles O26: the two targets as numbers, and the frame of Execute (`exec_frame`). -/
theorem jumpsSetPc : Obligations.JumpsSetPc :=
  ⟨fun nnn s => ⟨s.setPc (addrWord nnn), rfl, toNat_addrWord nnn, exec_frame (i := .jp nnn) rfl⟩,
    fun nnn s => ⟨s.setPc (indexedTarget nnn (s.reg Reg.v0)), rfl, toNat_indexedTarget nnn _,
      exec_frame (i := .jpV0 nnn) rfl⟩⟩

/-- Settles O27, by the two cases of the push. -/
theorem callPushesPcOrOverflows : Obligations.CallPushesPcOrOverflows :=
  ⟨fun nnn s room => ⟨_, exec_call_of_room nnn room, toNat_addrWord nnn, rfl, frame_stack_pc s _ _⟩,
    fun nnn _ full => exec_call_of_full nnn full⟩

end Sys2Proof.Machine

/-! ## The family 42_skips.md: SE, SNE, SKP and SKNP -/

namespace Sys2Proof.Machine

open Sys2Proof.Claims

/-- A skip changes PC and nothing else (R125). -/
theorem State.frame_skipIf (s : State) (c : Bool) : Frame { pc := true } s (s.skipIf c) := by
  rw [s.skipIf_only_pc]
  simp [Frame]

/-- A skip on a Boolean test that stands for the condition `p`: PC + 2 iff `p`, and the
frame (R125). -/
theorem State.skipIf_of_iff (s : State) {c : Bool} {p : Prop} [Decidable p] (h : c = true ↔ p) :
    (s.skipIf c).pc = (if p then s.pc + 2#16 else s.pc) ∧ Frame { pc := true } s (s.skipIf c) :=
  ⟨(s.skipIf_pc c).trans (if_congr h rfl rfl), s.frame_skipIf c⟩

/-- Settles O29: each of the four skips on the Boolean form of its comparison. -/
theorem comparingSkips : Obligations.ComparingSkips :=
  ⟨fun _ _ s => ⟨_, rfl, s.skipIf_of_iff beq_iff_eq⟩,
    fun _ _ s => ⟨_, rfl, s.skipIf_of_iff bne_iff_ne⟩,
    fun _ _ s => ⟨_, rfl, s.skipIf_of_iff beq_iff_eq⟩,
    fun _ _ s => ⟨_, rfl, s.skipIf_of_iff bne_iff_ne⟩⟩

/-- Settles O30: both skip on the key of Vx's low nibble (`keyPressed_eq_keyDown`), SKNP on its
negation. -/
theorem keySkipsTestTheLowNibblesKey : Obligations.KeySkipsTestTheLowNibblesKey := by
  refine ⟨fun x s => ⟨_, rfl, s.skipIf_of_iff ?_⟩, fun x s => ⟨_, rfl, s.skipIf_of_iff ?_⟩⟩
  · rw [keyPressed_eq_keyDown, keyDown]
  · rw [keyPressed_eq_keyDown, keyDown, Bool.not_eq_true']

end Sys2Proof.Machine

/-! ## The family 43_alu.md: register loads, arithmetic, logic, shifts and random -/

namespace Sys2Proof.Machine

open Sys2Proof.Claims

/-! ### The results as numbers -/

/-- A sum of two bytes modulo 256 (R141, R146, R153). -/
theorem toNat_sumByte (a b : Byte) : (sumByte a b).toNat = (a.toNat + b.toNat) % 256 :=
  BitVec.toNat_ofNat _ _

/-- A difference of two bytes modulo 256 (R147, R149, R153). -/
theorem toNat_diffByte (a b : Byte) : (diffByte a b).toNat = (a.toNat + 256 - b.toNat) % 256 :=
  BitVec.toNat_ofNat _ _

/-- Half a byte is a byte, so nothing wraps (R148). -/
theorem toNat_halfByte (b : Byte) : (halfByte b).toNat = b.toNat / 2 := by
  have := b.isLt
  rw [halfByte, BitVec.toNat_ofNat]
  omega

/-- Twice a byte modulo 256 (R150). -/
theorem toNat_doubleByte (b : Byte) : (doubleByte b).toNat = b.toNat * 2 % 256 :=
  BitVec.toNat_ofNat _ _

/-! ### The flags as numbers -/

theorem toNat_flagByte (c : Bool) : (flagByte c).toNat = c.toNat := by
  cases c <;> rfl

/-- The flag of a condition (R22). -/
theorem toNat_flagByte_decide (p : Prop) [Decidable p] :
    (flagByte (decide p)).toNat = if p then 1 else 0 :=
  (toNat_flagByte _).trans (Bool.cond_decide p 1 0)

/-- The flag of a bit (R22). -/
theorem toNat_flagByte_getLsbD (b : Byte) (k : Nat) :
    (flagByte (b.getLsbD k)).toNat = b.toNat / 2 ^ k % 2 := by
  rw [toNat_flagByte, ← BitVec.testBit_toNat, Nat.toNat_testBit]

/-- The carry of a sum (R146). -/
theorem toNat_carryFlag (a b : Byte) :
    (carryFlag a b).toNat = if 255 < a.toNat + b.toNat then 1 else 0 :=
  toNat_flagByte_decide _

/-- The strict comparison of a subtraction's operands (R147, R149). -/
theorem toNat_greaterFlag (a b : Byte) :
    (greaterFlag a b).toNat = if b.toNat < a.toNat then 1 else 0 :=
  toNat_flagByte_decide _

/-- The bit that a shift right loses (R148). -/
theorem toNat_lowBitFlag (b : Byte) : (lowBitFlag b).toNat = b.toNat % 2 := by
  rw [lowBitFlag, toNat_flagByte_getLsbD, Nat.pow_zero, Nat.div_one]

/-- The bit that a shift left loses (R150). -/
theorem toNat_highBitFlag (b : Byte) : (highBitFlag b).toNat = b.toNat / 128 := by
  have := b.isLt
  rw [highBitFlag, toNat_flagByte_getLsbD]
  omega

/-! ### The two ways to write a result -/

theorem State.reg_setReg_same (s : State) (x : Reg) (b : Byte) : (s.setReg x b).reg x = b := by
  rw [State.reg_setReg, if_pos rfl]

/-- A write of a register changes that register only (R21, R43). -/
theorem State.frame_setReg (s : State) (x : Reg) (b : Byte) : Frame { regs := [x] } s (s.setReg x b) := by
  refine ⟨fun z hz => ?_, by simp⟩
  rw [State.reg_setReg, if_neg (by simpa using hz)]

/-- A flag and a result change VF and that register only (R22, R106). -/
theorem State.frame_writeFlagged (s : State) (x : Reg) (flag result : Byte) :
    Frame { regs := [x, Reg.vf] } s (s.writeFlagged x flag result) := by
  refine ⟨fun z hz => ?_, by simp [State.writeFlagged]⟩
  obtain ⟨hx, hvf⟩ : z ≠ x ∧ z ≠ Reg.vf := by simpa using hz
  rw [State.reg_writeFlagged, if_neg hx, if_neg hvf]

/-- A flag and a result of known values: Vx is the result, VF is the flag unless it is Vx, and nothing
else changes (R106). -/
theorem State.writeFlagged_of_toNat (s : State) (x : Reg) {flag result : Byte} {r f : Nat}
    (hr : result.toNat = r) (hf : flag.toNat = f) :
    ((s.writeFlagged x flag result).reg x).toNat = r ∧
    (x ≠ Reg.vf → ((s.writeFlagged x flag result).reg Reg.vf).toNat = f) ∧
    Frame { regs := [x, Reg.vf] } s (s.writeFlagged x flag result) := by
  refine ⟨?_, fun hx => ?_, s.frame_writeFlagged x flag result⟩
  · rw [State.reg_writeFlagged, if_pos rfl, hr]
  · rw [State.reg_writeFlagged, if_neg hx.symm, if_pos rfl, hf]

/-! ### The statements -/

/-- Settles O31: both are a write of Vx, of `kk` or of the old Vy. -/
theorem registerLoads : Obligations.RegisterLoads :=
  ⟨fun x kk s => ⟨_, rfl, s.reg_setReg_same x kk, s.frame_setReg x kk⟩,
    fun x y s => ⟨_, rfl, s.reg_setReg_same x (s.reg y), s.frame_setReg x _⟩⟩

/-- Settles O32: the sum is a write of Vx, which keeps VF where VF is another register. -/
theorem addImmediateSetsNoFlag : Obligations.AddImmediateSetsNoFlag := by
  refine fun x kk s => ⟨_, rfl, ?_, fun hx => ?_, s.frame_setReg x _⟩
  · rw [State.reg_setReg_same, toNat_sumByte]
  · rw [State.reg_setReg, if_neg hx.symm]

/-- Settles O33: each of the three writes Vx only, with the bits of the bitwise operation. -/
theorem logicLeavesVfAlone : Obligations.LogicLeavesVfAlone := by
  refine fun x y s => ⟨⟨_, rfl, fun k _ => ?_, s.frame_setReg x _⟩,
    ⟨_, rfl, fun k _ => ?_, s.frame_setReg x _⟩, ⟨_, rfl, fun k _ => ?_, s.frame_setReg x _⟩⟩
  · rw [State.reg_setReg_same, BitVec.getLsbD_or]
  · rw [State.reg_setReg_same, BitVec.getLsbD_and]
  · rw [State.reg_setReg_same, BitVec.getLsbD_xor]

/-- Settles O34: the sum and its carry, both of the old values. -/
theorem addRegisterSumAndCarry : Obligations.AddRegisterSumAndCarry :=
  fun x _ s => ⟨_, rfl, s.writeFlagged_of_toNat x (toNat_sumByte _ _) (toNat_carryFlag _ _)⟩

/-- Settles O35: the difference and the strict comparison, with the operands exchanged in SUBN. -/
theorem subtractionsAndStrictFlag : Obligations.SubtractionsAndStrictFlag :=
  ⟨fun x _ s => ⟨_, rfl, s.writeFlagged_of_toNat x (toNat_diffByte _ _) (toNat_greaterFlag _ _)⟩,
    fun x _ s => ⟨_, rfl, s.writeFlagged_of_toNat x (toNat_diffByte _ _) (toNat_greaterFlag _ _)⟩⟩

/-- Settles O36: each shift's result and the bit that it loses. -/
theorem shiftsByOneAndLostBit : Obligations.ShiftsByOneAndLostBit :=
  ⟨fun x s => ⟨_, rfl, s.writeFlagged_of_toNat x (toNat_halfByte _) (toNat_lowBitFlag _)⟩,
    fun x s => ⟨_, rfl, s.writeFlagged_of_toNat x (toNat_doubleByte _) (toNat_highBitFlag _)⟩⟩

/-- Settles O37: a mask of RNDBYTE, of which nothing is used, by `kk`. -/
theorem randomIsMaskedByKk : Obligations.RandomIsMaskedByKk := by
  refine fun x kk s => ⟨_, rfl, fun k _ => ?_, ?_, s.frame_setReg x _⟩
  · rw [State.reg_setReg_same, BitVec.getLsbD_and]
  · rw [State.reg_setReg_same, BitVec.and_assoc, BitVec.and_not_self]
    exact BitVec.and_zero

end Sys2Proof.Machine

/-! ## The family 44_index_memory.md: the index register, BCD, block store and block load -/

namespace Sys2Proof.Machine

open Sys2Proof.Claims

/-! ### The values as numbers, and what the stores and loads leave to read -/

/-- The registers that a block form moves are those up to Vx (R164, R165). -/
theorem lt_blockCount {x z : Reg} : z.toNat < blockCount x ↔ z.toNat ≤ x.toNat :=
  Nat.lt_succ_iff

/-- The sum of I and a byte modulo 65536 (R161). -/
theorem toNat_indexSum (i : Word) (b : Byte) : (indexSum i b).toNat = (i.toNat + b.toNat) % 65536 := by
  rw [indexSum, BitVec.toNat_add, BitVec.toNat_setWidth_of_le (by decide)]

/-- The address of a glyph modulo 65536, on the whole byte (R162). -/
theorem toNat_glyphAddress (b : Byte) :
    (glyphAddress b).toNat = (Config.fontBase + 5 * b.toNat) % 65536 :=
  BitVec.toNat_ofNat _ _

/-- A number is made up of its hundreds, tens and ones (R163). -/
theorem eq_of_decimal_digits {n hundreds tens ones : Nat} (hh : hundreds = n / 100)
    (ht : tens = n / 10 % 10) (ho : ones = n % 10) : hundreds * 100 + tens * 10 + ones = n := by
  omega

/-- The stored digits as numbers: each fits in a byte, so none wraps (R163). -/
theorem toNat_bcdDigits (b : Byte) :
    (bcdDigits b).map BitVec.toNat = [b.toNat / 100, b.toNat / 10 % 10, b.toNat % 10] := by
  have := b.isLt
  simp only [bcdDigits, List.map_cons, List.map_nil, BitVec.toNat_ofNat, List.cons.injEq, and_true]
  omega

/-- A byte of a stored number reads back as its decimal digit (R55, R163). -/
theorem State.toNat_memByte_storeBytes_bcdDigits (s : State) (a : Nat) (b : Byte) {k : Nat} (hk : k < 3) :
    ((s.storeBytes a (bcdDigits b)).memByte (a + k)).toNat =
      [b.toNat / 100, b.toNat / 10 % 10, b.toNat % 10][k] := by
  rw [s.memByte_storeBytes_at a (bcdDigits b) hk]
  simp only [← toNat_bcdDigits]
  exact (List.getElem_map _).symm

/-- A register up to Vx after a block load is its byte (R165). -/
theorem State.reg_loadRegs_blockCount (s : State) (a : Nat) {x z : Reg} (hz : z.toNat ≤ x.toNat) :
    (s.loadRegs a (blockCount x)).reg z = s.memByte (a + z.toNat) := by
  rw [State.reg_loadRegs s a (blockCount x) x.isLt, if_pos (lt_blockCount.mpr hz)]

/-! ### What the writes leave unchanged -/

/-- A write of I changes I and nothing else (R23). -/
theorem State.frame_setI (s : State) (w : Word) : Frame { i := true } s (s.setI w) := by
  simp [Frame]

/-- A store of bytes changes those bytes and nothing else (R53, R57). -/
theorem State.frame_storeBytes (s : State) (a : Nat) (bs : List Byte) :
    Frame { storeAt := a, storeLen := bs.length } s (s.storeBytes a bs) :=
  ⟨fun _ _ => rfl, fun _ ha => s.memByte_storeBytes_of_outside ha, by simp⟩

/-- A block load changes its registers and nothing else (R165). -/
theorem State.frame_loadRegs (s : State) (a : Nat) (x : Reg) :
    Frame { regs := regsUpTo x } s (s.loadRegs a (blockCount x)) := by
  refine ⟨fun z hz => ?_, ?_⟩
  · have hx : ¬ z.toNat < blockCount x := fun hlt => hz (mem_regsUpTo.mpr (lt_blockCount.mp hlt))
    rw [State.reg_loadRegs s a (blockCount x) x.isLt, if_neg hx]
  · obtain ⟨v, hv⟩ := s.loadRegs_only_v a (blockCount x)
    rw [hv]
    exact ⟨fun _ _ => rfl, by simp⟩

/-! ### Execute on either side of the bounds -/

/-- An instruction whose range from I passes 4095 raises the fault and does nothing else (R61). -/
theorem exec_of_out {i : Instr} {s : State} (h0 : 0 < touched i) (h : 4095 < s.i.toNat + touched i - 1) :
    exec i s = .next (outOfBounds s) :=
  (outOfRangeAccessHasNoOtherEffect.2 i s h0).1 h

/-- LD B within memory, as the state Execute leaves (R163). -/
theorem exec_ldB_of_inside {s : State} {x : Reg} (h : s.i.toNat + 2 ≤ 4095) :
    exec (.ldB x) s = .next (s.storeBytes s.i.toNat (bcdDigits (s.reg x))) :=
  congrArg Host.Outcome.next (State.checkedFromI_of_inside (len := 3) h)

/-- A block load within memory, as the state Execute leaves (R165). -/
theorem exec_ldLoad_of_inside {s : State} {x : Reg} (h : s.i.toNat + x.toNat ≤ 4095) :
    exec (.ldLoad x) s = .next (s.loadRegs s.i.toNat (blockCount x)) :=
  congrArg Host.Outcome.next (State.checkedFromI_of_inside (len := blockCount x) h)

/-! ### The statements -/

/-- Settles O38: each of the three is a write of I, of a value whose number is known. -/
theorem indexRegisterWrites : Obligations.IndexRegisterWrites :=
  ⟨fun nnn s => ⟨_, rfl, toNat_addrWord nnn, s.frame_setI _⟩,
    fun x s => ⟨_, rfl, toNat_indexSum s.i (s.reg x), s.frame_setI _⟩,
    fun x s => ⟨_, rfl, toNat_glyphAddress (s.reg x), s.frame_setI _⟩⟩

/-- Settles O39: the three bytes read back as the digits, and the digits make up the number. -/
theorem bcdStoresTheDecimalDigits : Obligations.BcdStoresTheDecimalDigits := by
  refine ⟨fun x s hout => exec_of_out (i := .ldB x) (Nat.succ_pos 2) hout,
    fun x s hin => ⟨_, exec_ldB_of_inside hin, ?_⟩⟩
  have hundreds := s.toNat_memByte_storeBytes_bcdDigits s.i.toNat (s.reg x) (k := 0) (by decide)
  have tens := s.toNat_memByte_storeBytes_bcdDigits s.i.toNat (s.reg x) (k := 1) (by decide)
  have ones := s.toNat_memByte_storeBytes_bcdDigits s.i.toNat (s.reg x) (k := 2) (by decide)
  exact ⟨hundreds, tens, ones, eq_of_decimal_digits hundreds tens ones,
    s.frame_storeBytes _ (bcdDigits _)⟩

/-- Settles O40: each byte of the store reads back as its register. -/
theorem blockStoreWritesTheRegisters : Obligations.BlockStoreWritesTheRegisters := by
  refine ⟨fun x s hout => exec_of_out (i := .ldStore x) (Nat.succ_pos _) hout, fun x s hin =>
    ⟨_, exec_ldStore_of_inside hin,
      fun z hz => s.memByte_storeBytes_regBytes _ (lt_blockCount.mpr hz), ?_⟩⟩
  have hframe := s.frame_storeBytes s.i.toNat (s.regBytes (blockCount x))
  rwa [State.length_regBytes] at hframe

/-- Settles O41: each register up to Vx reads as its byte. -/
theorem blockLoadReadsTheRegisters : Obligations.BlockLoadReadsTheRegisters :=
  ⟨fun x _ hout => exec_of_out (i := .ldLoad x) (Nat.succ_pos _) hout, fun x s hin =>
    ⟨_, exec_ldLoad_of_inside hin, fun _ hz => s.reg_loadRegs_blockCount _ hz, s.frame_loadRegs _ x⟩⟩

/-- Settles O42: the load reads the bytes that the store wrote, as memory and I are kept in between. -/
theorem blockStoreThenLoadRestoresTheRegisters :
    Obligations.BlockStoreThenLoadRestoresTheRegisters := by
  intro x s t u v hin hstore hmem hi hload z hz
  cases (exec_ldStore_of_inside hin).symm.trans hstore
  have hiu : u.i = s.i := hi
  cases (exec_ldLoad_of_inside (s := u) (hiu ▸ hin)).symm.trans hload
  calc (u.loadRegs u.i.toNat (blockCount x)).reg z
      = u.memByte (u.i.toNat + z.toNat) := u.reg_loadRegs_blockCount _ hz
    _ = (s.storeBytes s.i.toNat (s.regBytes (blockCount x))).memByte (s.i.toNat + z.toNat) := by
      rw [hiu, State.memByte, hmem, State.memByte]
    _ = s.reg z := s.memByte_storeBytes_regBytes _ (lt_blockCount.mpr hz)

end Sys2Proof.Machine

/-! ## The family 45_display.md: CLS and DRW -/

namespace Sys2Proof.Machine

open Sys2Proof.Claims

/-! ### CLS -/

/-- Every pixel of a cleared display is 0 (R170). -/
theorem pixelOf_clearDisplay (r k : Nat) : pixelOf clearDisplay r k = false := by
  simp [pixelOf, clearDisplay]

/-- Settles O45: the pixels of the cleared display, and the frame of Execute (`exec_frame`). -/
theorem clsClearsTheDisplay : Obligations.ClsClearsTheDisplay := fun s =>
  ⟨(s.setFb clearDisplay).markDirty, rfl, fun r k _ _ => pixelOf_clearDisplay r k, rfl,
    exec_frame (i := .cls) rfl⟩

/-! ### The picture that the blitter's loops draw -/

/-- The canvas `c` is what drawing the picture `p` on the display `f` leaves: each pixel of the frame is
XORed with its bit, and there is a collision iff a bit meets a pixel that `f` has lit (R171). -/
def Draws (f : Display) (p : Nat → Nat → Bool) (c : Canvas) : Prop :=
  (∀ r k, r < Config.dispH → k < Config.dispW → pixelOf c.fb r k = (pixelOf f r k ^^ p r k)) ∧
  (c.collision = true ↔
    ∃ r k, r < Config.dispH ∧ k < Config.dispW ∧ pixelOf f r k = true ∧ p r k = true)

/-- The part of a sprite that is drawn after `rows` whole rows and `bits` bits of the next row, for the
sprite at `a` of memory with its origin at (`oy`, `ox`) (R171). -/
def spritePart (m : Memory) (oy ox a rows bits r k : Nat) : Bool :=
  decide (oy ≤ r ∧ ox ≤ k ∧ (r < oy + rows ∧ k < ox + 8 ∨ r = oy + rows ∧ k < ox + bits)) &&
    (m.get (a + (r - oy))).getLsbD (7 - (k - ox))

/-- A lit pixel is in the frame. -/
theorem inFrame_of_pixelOf {f : Display} {r k : Nat} (h : pixelOf f r k = true) :
    r < Config.dispH ∧ k < Config.dispW := by
  by_contra hout
  rw [pixelOf, dif_neg hout] at h
  exact Bool.false_ne_true h

/-- A blank picture leaves the display as it is, with no collision. -/
theorem draws_blank {f : Display} {p : Nat → Nat → Bool} (h : ∀ r k, p r k = false) :
    Draws f p ⟨f, false⟩ := by
  simp [Draws, h]

/-- One more bit, on a pixel that the picture so far leaves alone: the pixel still has its value in `f`,
so the collision is with `f` itself. -/
theorem Draws.plot {f : Display} {p q : Nat → Nat → Bool} {c : Canvas} {row col : Nat} {bit : Bool}
    (h : Draws f p c) (hfree : p row col = false) (hbit : q row col = bit)
    (hrest : ∀ r k, ¬ (r = row ∧ k = col) → q r k = p r k) : Draws f q (plot c row col bit) := by
  obtain ⟨hpixel, hcollision⟩ := h
  refine ⟨fun r k hr hk => ?_, ?_⟩
  · rw [pixelOf_plot, hpixel r k hr hk]
    by_cases hat : r = row ∧ k = col
    · obtain ⟨rfl, rfl⟩ := hat
      rw [if_pos ⟨hr, hk, rfl, rfl⟩, hfree, hbit, Bool.xor_false]
    · rw [if_neg fun e => hat e.2.2, hrest r k hat]
  · have hold (hr : row < Config.dispH) (hk : col < Config.dispW) :
        pixelOf c.fb row col = pixelOf f row col := by
      rw [hpixel row col hr hk, hfree, Bool.xor_false]
    rw [collision_plot, Bool.or_eq_true, hcollision, Bool.and_eq_true]
    constructor
    · rintro (⟨r, k, hr, hk, hlit, hp⟩ | ⟨hon, hlit⟩)
      · have hne : ¬ (r = row ∧ k = col) := by
          rintro ⟨rfl, rfl⟩
          exact Bool.false_ne_true (hfree.symm.trans hp)
        exact ⟨r, k, hr, hk, hlit, (hrest r k hne).trans hp⟩
      · obtain ⟨hr, hk⟩ := inFrame_of_pixelOf hlit
        exact ⟨row, col, hr, hk, (hold hr hk).symm.trans hlit, hbit.trans hon⟩
    · rintro ⟨r, k, hr, hk, hlit, hq⟩
      by_cases hat : r = row ∧ k = col
      · obtain ⟨rfl, rfl⟩ := hat
        exact .inr ⟨hbit.symm.trans hq, (hold hr hk).trans hlit⟩
      · exact .inl ⟨r, k, hr, hk, hlit, (hrest r k hat).symm.trans hq⟩

/-- The bits of one sprite row, drawn after the rows above it. -/
theorem Draws.plotBits {f : Display} {m : Memory} {oy ox a rows : Nat} {c : Canvas}
    (h : Draws f (spritePart m oy ox a rows 0) c) (bits : Nat) :
    Draws f (spritePart m oy ox a rows bits) (plotBits c (oy + rows) ox (m.get (a + rows)) bits) := by
  induction bits with
  | zero => exact h
  | succ j ih =>
    refine ih.plot ?_ ?_ fun r k hne => ?_
    · simp [spritePart]
    · simp [spritePart]
    · have hsame : (r = oy + rows ∧ k < ox + (j + 1)) ↔ (r = oy + rows ∧ k < ox + j) := by omega
      simp only [spritePart, hsame]

/-- A whole row of 8 bits is one more row. -/
theorem spritePart_eight (m : Memory) (oy ox a rows : Nat) :
    spritePart m oy ox a rows 8 = spritePart m oy ox a (rows + 1) 0 := by
  funext r k
  have hsame : (oy ≤ r ∧ ox ≤ k ∧ (r < oy + rows ∧ k < ox + 8 ∨ r = oy + rows ∧ k < ox + 8)) ↔
      (oy ≤ r ∧ ox ≤ k ∧ (r < oy + (rows + 1) ∧ k < ox + 8 ∨ r = oy + (rows + 1) ∧ k < ox + 0)) := by
    omega
  rw [spritePart, decide_eq_decide.mpr hsame, spritePart]

/-- The rows of a sprite, drawn on a display. -/
theorem draws_plotRows (f : Display) (m : Memory) (oy ox a rows : Nat) :
    Draws f (spritePart m oy ox a rows 0) (plotRows m ⟨f, false⟩ oy ox a rows) := by
  induction rows with
  | zero =>
    refine draws_blank fun r k => ?_
    rw [spritePart, decide_eq_false (by omega), Bool.false_and]
  | succ r ih =>
    rw [← spritePart_eight]
    exact ih.plotBits 8

/-- `n` whole rows are the sprite of the statement (R171). -/
theorem spritePart_eq_spriteBit (s : State) (vx vy : Byte) (n : Nibble) :
    spritePart s.mem (originRow vy) (originCol vx) s.i.toNat n.toNat 0 = spriteBit s vx vy n := by
  funext r k
  have hsame : (originRow vy ≤ r ∧ originCol vx ≤ k ∧
        (r < originRow vy + n.toNat ∧ k < originCol vx + 8 ∨
          r = originRow vy + n.toNat ∧ k < originCol vx + 0)) ↔
      (originRow vy ≤ r ∧ r < originRow vy + n.toNat ∧ originCol vx ≤ k ∧ k < originCol vx + 8) := by
    omega
  rw [spritePart, decide_eq_decide.mpr hsame]
  rfl

/-- What DRW draws, pixel by pixel (R171). -/
theorem draws_sprite (s : State) (vx vy : Byte) (n : Nibble) :
    Draws s.fb (spriteBit s vx vy n) (s.sprite vx vy n) :=
  spritePart_eq_spriteBit s vx vy n ▸ draws_plotRows _ _ _ _ _ _

/-- A collision is a pixel that the drawing turns from 1 to 0. -/
theorem Draws.collision_iff {f : Display} {p : Nat → Nat → Bool} {c : Canvas} (h : Draws f p c) :
    c.collision = true ↔
      ∃ r k, r < Config.dispH ∧ k < Config.dispW ∧ pixelOf f r k = true ∧ pixelOf c.fb r k = false := by
  obtain ⟨hpixel, hcollision⟩ := h
  rw [hcollision]
  refine exists_congr fun r => exists_congr fun k => and_congr_right fun hr => and_congr_right fun hk =>
    and_congr_right fun hlit => ?_
  simp [hpixel r k hr hk, hlit]

/-! ### DRW on either side of the bounds -/

theorem flagByte_eq_one {b : Bool} : flagByte b = 1#8 ↔ b = true := by
  cases b <;> decide

theorem flagByte_eq_zero_or_one (b : Bool) : flagByte b = 0#8 ∨ flagByte b = 1#8 := by
  cases b <;> decide

/-- Showing a canvas changes VF, the display and DIRTY and nothing else (R171). -/
theorem State.frame_showCanvas (s : State) (c : Canvas) :
    Frame { regs := [Reg.vf], fb := true, dirty := true } s (s.showCanvas c) := by
  refine ⟨fun z hz => ?_, by simp [State.showCanvas]⟩
  rw [State.showCanvas_reg, if_neg (by simpa using hz)]

/-- DRW in range, as the state Execute leaves (R171). -/
theorem exec_drw_of_inRange {s : State} {x y : Reg} {n : Nibble} (h : InRange s n.toNat) :
    exec (.drw x y n) s = .next (s.showCanvas (s.sprite (s.reg x) (s.reg y) n)) := by
  rw [exec, execDrw, State.checkedFromI, rangeOut_false.mpr h, if_neg Bool.false_ne_true]

/-- DRW out of range raises the fault and does nothing else (R61, R171). -/
theorem exec_drw_of_not_inRange {s : State} {x y : Reg} {n : Nibble} (h : ¬ InRange s n.toNat) :
    exec (.drw x y n) s = .next (outOfBounds s) := by
  obtain ⟨hrows, hout⟩ := not_or.mp h
  exact exec_of_out (i := .drw x y n) (Nat.pos_of_ne_zero hrows) (Nat.lt_of_not_le hout)

/-! ### The statements -/

/-- Settles O46: the loops draw the sprite of the statement (`draws_sprite`). -/
theorem drwXorsTheClippedSprite : Obligations.DrwXorsTheClippedSprite := by
  refine ⟨fun x y n s => exec_drw_of_not_inRange, fun x y n s hin => ⟨_, exec_drw_of_inRange hin, ?_⟩⟩
  have hdraws := draws_sprite s (s.reg x) (s.reg y) n
  refine ⟨hdraws.1, ?_, ?_, rfl, s.frame_showCanvas _⟩
  · rw [State.showCanvas_reg, if_pos rfl]
    exact flagByte_eq_zero_or_one _
  · rw [State.showCanvas_reg, if_pos rfl, flagByte_eq_one]
    exact hdraws.collision_iff

/-- The sprite of DRW is the same in a state with the same memory from I on. -/
theorem spriteBit_congr {s t : State} (hi : t.i = s.i) (hmem : ∀ a, t.memByte a = s.memByte a)
    (vx vy : Byte) (n : Nibble) : spriteBit t vx vy n = spriteBit s vx vy n := by
  funext r k
  rw [spriteBit, spriteBit, hi, hmem]

/-- Settles O47: the first drawing keeps the sprite and its origin, so the second draws the same bits
(O46), and a pixel XORed twice with its bit is as before. -/
theorem drawingTwiceRestoresTheDisplay : Obligations.DrawingTwiceRestoresTheDisplay := by
  intro x y n s t u hx hy hin hfirst hsecond
  obtain ⟨t', ht, htpixel, -, -, -, htframe⟩ := drwXorsTheClippedSprite.2 x y n s hin
  cases hfirst.symm.trans ht
  obtain ⟨hreg, hmem, hi, -⟩ := htframe
  have hti : t.i = s.i := hi rfl
  have htmem : ∀ a, t.memByte a = s.memByte a := fun a => hmem a (.inr (Nat.zero_le a))
  obtain ⟨u', hu, hupixel, -, huflag, -⟩ :=
    drwXorsTheClippedSprite.2 x y n t (by rwa [InRange, hti])
  cases hsecond.symm.trans hu
  rw [hreg x (by simpa using hx), hreg y (by simpa using hy), spriteBit_congr hti htmem] at hupixel
  have hrestored : ∀ r k, r < 32 → k < 64 → u.pixel r k = s.pixel r k := fun r k hr hk => by
    rw [hupixel r k hr hk, htpixel r k hr hk, Bool.xor_assoc, Bool.xor_self, Bool.xor_false]
  refine ⟨display_ext hrestored, huflag.trans ?_⟩
  refine exists_congr fun r => exists_congr fun k => and_congr_right fun hr => and_congr_right fun hk => ?_
  rw [hrestored r k hr hk, and_comm]

end Sys2Proof.Machine

/-! ## The family 46_timers_keys.md: the timer moves and the key wait -/

namespace Sys2Proof.Machine

open Sys2Proof.Claims

/-! ### What the writes of the timers leave unchanged -/

/-- A write of DT changes DT and nothing else (R31). -/
theorem State.frame_setDt (s : State) (b : Byte) : Frame { dt := true } s (s.setDt b) := by
  simp [Frame]

/-- A write of ST changes ST and nothing else (R32). -/
theorem State.frame_setSt (s : State) (b : Byte) : Frame { st := true } s (s.setSt b) := by
  simp [Frame]

/-! ### LD Vx,K with and without a key -/

/-- LD Vx,K with no key pressed goes back to itself (R181). -/
theorem exec_ldVxK_of_no_key {s : State} (x : Reg) (h : s.keys = 0#16) :
    exec (.ldVxK x) s = .next (s.setPc (s.pc - 2#16)) := by
  rw [exec, execLdVxK, lowestKey_eq_none.mpr h, State.takeKey_none]

/-- LD Vx,K writes the number of the key found (R181). -/
theorem exec_ldVxK_of_lowestKey {s : State} (x : Reg) {k : Nat} (h : lowestKey s.keys = some k) :
    exec (.ldVxK x) s = .next (s.setReg x (BitVec.ofNat 8 k)) := by
  rw [exec, execLdVxK, h, State.takeKey_some]

/-- The end of a step with no fault, as one state: each timer ticked, the step's inputs used up
(R107, R218). -/
theorem State.endStep_eq_ticked {s : State} (h : s.fault = none) :
    s.endStep = { s with
      dt := ticked s.dt, st := ticked s.st, inputs := s.inputs.tail, draws := s.draws + 1 } := by
  obtain ⟨hdt, hst⟩ := State.timers_endStep h
  rw [s.endStep_only_timers, hdt, hst]

/-- The rewind of a waiting step undoes its PC advance (R103, R181). -/
theorem State.setPc_rewind_advancePc (s : State) :
    s.advancePc.setPc (s.advancePc.pc - 2#16) = s := by
  rw [State.advancePc_pc, BitVec.add_sub_cancel]
  rfl

/-! ### The statements -/

/-- Settles O50: the key that is found is the lowest pressed one (`lowestKey_eq_some`), and it is found
iff KEYS is not 0. -/
theorem keyWaitTakesTheLowestKey : Obligations.KeyWaitTakesTheLowestKey := by
  refine ⟨fun x s hpressed => ?_, fun x s => exec_ldVxK_of_no_key x⟩
  obtain ⟨k, hk⟩ := Option.ne_none_iff_exists'.mp (mt lowestKey_eq_none.mp hpressed)
  obtain ⟨hlt, hdown, hlower⟩ := lowestKey_eq_some hk
  refine ⟨_, k, exec_ldVxK_of_lowestKey x hk, hlt, hdown, hlower, ?_, s.frame_setReg x _⟩
  rw [State.reg_setReg_same, BitVec.toNat_ofNat]
  omega

/-- Settles O49: each of the three writes its one element, with the value of the other. -/
theorem timerMoves : Obligations.TimerMoves :=
  ⟨fun x s => ⟨_, rfl, s.reg_setReg_same x s.dt, s.frame_setReg x _⟩,
    fun x s => ⟨_, rfl, s.setDt_dt (s.reg x), s.frame_setDt _⟩,
    fun x s => ⟨_, rfl, s.setSt_st (s.reg x), s.frame_setSt _⟩⟩

/-- Settles O51: Execute takes the PC advance back, so the step ends from the state before it. -/
theorem waitingStepChangesOnlyTheTimers : Obligations.WaitingStepChangesOnlyTheTimers := by
  intro s x hi hkeys
  obtain ⟨t, ht⟩ := step_answers s
  obtain ⟨u, hu, rfl⟩ := exec_of_step hi ht
  have hwait := exec_ldVxK_of_no_key (s := s.advancePc) x (s.advancePc_keys.trans hkeys)
  cases hwait.symm.trans hu
  rw [ht, s.setPc_rewind_advancePc, State.endStep_eq_ticked hi.1]

end Sys2Proof.Machine

/-! ## The family 60_exceptions.md: the fault table, the illegal words, and who clears DIRTY -/

namespace Sys2Proof.Machine

open Sys2Proof.Claims

/-! ### What a fetch within memory decodes to -/

/-- An illegal word at PC is rejected with the word itself (R78, R201). -/
theorem decodedAtPc_of_illegal {s : State} (illegal : Illegal (wordAtPc s)) :
    decodedAtPc s = .reject (.invalidInstruction (wordAtPc s)) :=
  decodeWord_of_none (selectInstr_eq_none_iff_illegal.mpr illegal)

/-- A word at PC that is not illegal is an instruction's (R78, R104). -/
theorem fetches_of_legal {s : State} (hs : s.fault = none) (hpc : s.pc.toNat ≤ 0x0FFE)
    (legal : ¬ Illegal (wordAtPc s)) : ∃ i, Fetches s i := by
  obtain ⟨i, hi⟩ := (illegalWordsAreExactlyTheRejected (wordAtPc s)).2 legal
  exact ⟨i, hs, hpc, hi⟩

/-- A fetched instruction's word is not illegal (R78). -/
theorem not_illegal_of_fetches {s : State} {i : Instr} (hi : Fetches s i) : ¬ Illegal (wordAtPc s) := by
  intro illegal
  obtain ⟨-, -, hd⟩ := hi
  cases hd.symm.trans (decodedAtPc_of_illegal illegal)

/-- The step of a running core at an illegal word: the PC advance, the fault, and the end of a step that
does not tick (R103, R110, R201). -/
theorem step_of_illegal {s : State} (hs : s.fault = none) (hpc : s.pc.toNat ≤ 0x0FFE)
    (illegal : Illegal (wordAtPc s)) :
    step s = .next (s.advancePc.raise .invalidInstruction (wordAtPc s)).nextInput := by
  rcases step_cases s with ⟨hn, _⟩ | ⟨_, hp, _⟩ | ⟨_, _, _, hr, hstep⟩ | ⟨_, _, _, _, hi, _⟩
  · exact absurd hs hn
  · omega
  · cases (decodedAtPc_of_illegal illegal).symm.trans hr
    rw [hstep, State.raiseReject, State.endStep_raise]
  · exact absurd illegal (not_illegal_of_fetches ⟨hs, hpc, hi⟩)

/-! ### The fault table -/

/-- Where Execute has a cause for a fault it raises it, and does nothing else (R200, R206). -/
theorem ExecFault.exec_eq_raise {s : State} {i : Instr} {k : FaultKind} {info : Word}
    (cause : ExecFault s i k info) : exec i s = .next (s.raise k info) := by
  cases cause with
  | underflow empty => exact exec_ret_of_empty empty
  | overflow nnn full => exact exec_call_of_full nnn full
  | bounds i out =>
    obtain ⟨h0, hout⟩ := rangeOut_true.mp out
    exact exec_of_out h0 hout

/-- The table's row for a fetched instruction names a fault iff its Execute has a cause for it (R200). -/
theorem faultOf_eq_some_iff {s : State} {i : Instr} (hi : Fetches s i) {k : FaultKind} {info : Word} :
    faultOf s = some (k, info) ↔ ExecFault s.advancePc i k info := by
  have legal := not_illegal_of_fetches hi
  obtain ⟨-, hpc, hd⟩ := hi
  rw [faultOf, if_neg (Nat.not_lt.mpr hpc), if_neg legal, hd]
  constructor
  · intro h
    cases i with
    | ret =>
      obtain ⟨empty, h⟩ := Option.ite_none_right_eq_some.mp h
      cases h
      exact .underflow empty
    | call nnn =>
      obtain ⟨full, h⟩ := Option.ite_none_right_eq_some.mp h
      cases h
      exact .overflow nnn full
    | _ =>
      obtain ⟨out, h⟩ := Option.ite_none_right_eq_some.mp h
      cases h
      exact .bounds _ (rangeOut_true.mpr out)
  · intro cause
    cases cause with
    | underflow empty => exact if_pos empty
    | overflow nnn full => exact if_pos full
    | bounds _ out =>
      have hout := rangeOut_true.mp out
      cases i with
      | ret | call => exact absurd hout.1 (Nat.lt_irrefl 0)
      | _ => exact if_pos hout

/-- Execute that keeps FAULT clear has no row in the table (R200). -/
theorem faultOf_eq_none_of_exec {s u : State} {i : Instr} (hi : Fetches s i)
    (hu : exec i s.advancePc = .next u) (hf : u.fault = none) : faultOf s = none := by
  refine Option.eq_none_iff_forall_ne_some.mpr fun ⟨k, info⟩ h => ?_
  cases ((faultOf_eq_some_iff hi).mp h).exec_eq_raise.symm.trans hu
  cases hf

/-- Settles O17: a fault of Fetch, an illegal word, or a fetched instruction, whose Execute raises the
fault of its row (`faultOf_eq_some_iff`) or keeps the fault registers. -/
theorem faultsAreExactlyThoseOfTheTable : Obligations.FaultsAreExactlyThoseOfTheTable := by
  refine ⟨fun s t hs h => ?_, fun s => ?_⟩
  · by_cases hpc : 0x0FFE < s.pc.toNat
    · cases h.symm.trans (step_of_fetch_out hs hpc)
      rw [faultOf, if_pos hpc]
      exact ⟨rfl, rfl⟩
    have hin : s.pc.toNat ≤ 0x0FFE := Nat.le_of_not_lt hpc
    by_cases illegal : Illegal (wordAtPc s)
    · cases h.symm.trans (step_of_illegal hs hin illegal)
      rw [faultOf, if_neg hpc, if_pos illegal]
      exact ⟨rfl, rfl⟩
    obtain ⟨i, hi⟩ := fetches_of_legal hs hin illegal
    obtain ⟨u, hu, rfl⟩ := exec_of_step hi h
    rw [State.endStep_fault, State.endStep_faultInfo]
    rcases (executed_of_exec hu).fault_cases with ⟨k, info, cause, rfl⟩ | ⟨hfault, hinfo⟩
    · rw [(faultOf_eq_some_iff hi).mpr cause]
      exact ⟨rfl, rfl⟩
    · have running : u.fault = none := hfault.trans hs
      rw [faultOf_eq_none_of_exec hi hu running]
      exact ⟨running, hinfo⟩
  · rw [State.faultCode]
    rcases s.fault with _ | ⟨_ | _ | _ | _⟩ <;> rfl

/-! ### The illegal words -/

/-- No fault of Execute is InvalidInstruction (R201). -/
theorem ExecFault.ne_invalidInstruction {s : State} {i : Instr} {k : FaultKind} {info : Word}
    (cause : ExecFault s i k info) : k ≠ .invalidInstruction := by
  cases cause <;> exact nofun

/-- Settles O13: the step at an illegal word is `step_of_illegal`; a fault of Fetch or of Execute is of
another kind. -/
theorem illegalWordHaltsTheCore : Obligations.IllegalWordHaltsTheCore := by
  refine ⟨fun s hs hpc => step_of_illegal hs hpc, fun s t hs h hf => ?_⟩
  by_cases hpc : 0x0FFE < s.pc.toNat
  · cases h.symm.trans (step_of_fetch_out hs hpc)
    cases hf
  have hin : s.pc.toNat ≤ 0x0FFE := Nat.le_of_not_lt hpc
  refine ⟨hin, not_imp_comm.mp (fetches_of_legal hs hin) fun ⟨i, hi⟩ => ?_⟩
  obtain ⟨u, hu, rfl⟩ := exec_of_step hi h
  rw [State.endStep_fault] at hf
  rcases (executed_of_exec hu).fault_cases with ⟨k, info, cause, rfl⟩ | ⟨hfault, -⟩
  · exact cause.ne_invalidInstruction (Option.some.inj hf)
  · cases hf.symm.trans (hfault.trans hs)

/-! ### DIRTY -/

@[simp] theorem State.endStep_dirty (s : State) : s.endStep.dirty = s.dirty :=
  (congrArg State.dirty s.endStep_only_timers).trans rfl

theorem State.raiseReject_dirty (s : State) (r : Reject) : (s.raiseReject r).dirty = s.dirty := by
  cases r <;> rfl

/-- Execute never clears DIRTY: CLS and DRW set it, and no other instruction's rule names it (R35). -/
theorem exec_keeps_dirty {i : Instr} {s t : State} (h : exec i s = .next t) (hd : s.dirty = true) :
    t.dirty = true := by
  obtain ⟨-, -, -, -, -, -, -, -, keepsDirty, -⟩ := exec_frame h
  cases i with
  | cls => cases h; rfl
  | drw =>
    cases h
    exact (State.checkedFromI_keeps State.dirty (fun _ _ => rfl) hd.symm).trans hd
  | _ => exact (keepsDirty rfl).trans hd

/-- A step never clears DIRTY (R35, R108). -/
theorem step_keeps_dirty {s t : State} (h : step s = .next t) (hd : s.dirty = true) :
    t.dirty = true := by
  rcases step_cases s with ⟨_, hstep⟩ | ⟨_, _, hstep⟩ | ⟨_, _, _, _, hstep⟩ |
    ⟨_, _, _, _, _, hu, hstep⟩ <;> cases h.symm.trans hstep
  · exact hd
  · rwa [State.endStep_dirty]
  · rwa [State.endStep_dirty, State.raiseReject_dirty]
  · rw [State.endStep_dirty]
    exact exec_keeps_dirty hu hd

/-- A move of the host other than the acknowledge and reset never clears DIRTY (R217). -/
theorem move_keeps_dirty {h h' : Session} {m : HostMove} (hm : h.move m = .next h')
    (hack : m ≠ .flushAck) (hreset : m ≠ .reset) (hd : h.core.dirty = true) : h'.core.dirty = true := by
  rcases Session.move_cases hm with ⟨hr, _⟩ | ⟨ha, _⟩ | ⟨_, _, _, rfl⟩ | ⟨_, _, _, _, rfl⟩ |
    ⟨_, _, _, _, rfl⟩ | ⟨_, _, _, _, _, hstep, rfl⟩
  · exact absurd hr hreset
  · exact absurd ha hack
  · exact hd
  · exact hd
  · exact hd
  · exact step_keeps_dirty hstep hd

/-- The read port is row-major (R217, R223). -/
theorem State.fbPort_row_col (s : State) {r c : Nat} (hc : c < 64) :
    s.fbPort (r * 64 + c) = s.pixel r c := by
  have hrow : (r * 64 + c) / 64 = r := by omega
  have hcol : (r * 64 + c) % 64 = c := by omega
  exact congrArg₂ s.pixel hrow hcol

/-- Settles O48: every other move keeps DIRTY (`move_keeps_dirty`), and the acknowledge writes it alone. -/
theorem dirtyIsClearedOnlyByTheHost : Obligations.DirtyIsClearedOnlyByTheHost := by
  refine ⟨fun h h' m hm hd hclear => ?_, fun _ => rfl, fun s _ _ _ => s.fbPort_row_col⟩
  by_contra hother
  obtain ⟨hack, hreset⟩ := not_or.mp hother
  cases (move_keeps_dirty hm hack hreset hd).symm.trans hclear

end Sys2Proof.Machine

/-! ## The family 70_reset_and_hazards.md: the sound of one step, and the program load -/

namespace Sys2Proof.Machine

open Sys2Proof.Claims

/-! ### The sound at the end of a step -/

/-- A tick leaves a timer running iff it stood at 2 or more (R107). -/
theorem ticked_pos_iff (b : Byte) : 0 < (ticked b).toNat ↔ 2 ≤ b.toNat := by
  have := b.isLt
  rw [ticked, BitVec.toNat_ofNat, Nat.mod_eq_of_lt (by omega)]
  omega

/-- The sound is on after a step with no fault iff Execute left ST at 2 or more (R183, R242). -/
theorem State.soundActive_endStep_iff {s : State} (h : s.fault = none) :
    s.endStep.soundActive = true ↔ 2 ≤ s.st.toNat := by
  obtain ⟨-, hst⟩ := State.timers_endStep h
  rw [State.soundActive, decide_eq_true_iff, hst, ticked_pos_iff]

/-! ### The program load -/

/-- A program that fits is stored from PROG_BASE (R236). -/
theorem State.loadProgram_of_fits (s : State) {p : List Byte} (h : p.length ≤ 4096 - Config.progBase) :
    s.loadProgram p = .next (s.storeBytes Config.progBase p) := by
  rcases s.loadProgram_cases p with ⟨hlong, _⟩ | ⟨_, hload⟩
  · exact absurd hlong (Nat.not_lt.mpr h)
  · exact hload

/-- A program that does not fit is a load failure (R236). -/
theorem State.loadProgram_of_too_long (s : State) {p : List Byte} (h : 4096 - Config.progBase < p.length) :
    s.loadProgram p = .refused (.loadFailure p.length) := by
  rcases s.loadProgram_cases p with ⟨_, hload⟩ | ⟨hfits, _⟩
  · exact hload
  · exact absurd h (Nat.not_lt.mpr hfits)

/-- While a load is open, the host's load is the core's, and it closes the time of loading (R236). -/
theorem Session.move_load_of_loadable {h : Session} (hl : h.loadable = true) (p : List Byte) :
    h.move (.load p) = Session.after (h.core.loadProgram p) false :=
  if_pos hl

/-- After a load or a step no load is open (R236). -/
theorem Session.not_loadable_of_load_or_step {h h' : Session} {m : HostMove}
    (hm : h.move m = .next h') (hkind : (∃ q, m = .load q) ∨ ∃ k r, m = .step k r) :
    h'.loadable = false := by
  rcases Session.move_cases hm with ⟨rfl, _⟩ | ⟨rfl, _⟩ | ⟨_, _, hl, rfl⟩ | ⟨_, _, _, _, rfl⟩ |
    ⟨_, _, _, _, rfl⟩ | ⟨_, _, _, _, _, _, rfl⟩
  · simp at hkind
  · simp at hkind
  · exact hl
  · rfl
  · rfl
  · rfl

/-! ### The statements -/

/-- Settles O52: Execute sets ST to Vx, and the end of the step ticks it once. -/
theorem soundOfOneStepIsSilent : Obligations.SoundOfOneStepIsSilent := by
  intro s t x hi h
  obtain ⟨u, hu, rfl⟩ := exec_of_step hi h
  obtain ⟨running, _⟩ := hi
  cases hu
  exact State.soundActive_endStep_iff (s := s.advancePc.setSt (s.reg x)) running

/-- Settles O53: a load is a store from PROG_BASE, and a load or a step closes the time of loading, in
which alone a load has an effect (`hostChangesMemoryOnlyByResetAndLoad`). -/
theorem programLoadPlacesTheBytes : Obligations.ProgramLoadPlacesTheBytes := by
  obtain ⟨-, -, closedLoad⟩ := hostChangesMemoryOnlyByResetAndLoad
  refine ⟨fun s p fits => ?_, fun s p => s.loadProgram_of_too_long, fun h p hl fits => ?_,
    fun h p hl long => ?_, fun h h' h'' m p hkind hm hload => ?_⟩
  · exact ⟨_, s.loadProgram_of_fits fits, fun k hk => s.memByte_storeBytes_at _ p hk,
      s.frame_storeBytes _ p⟩
  · have hload := h.core.loadProgram_of_fits fits
    exact ⟨_, hload, by rw [Session.move_load_of_loadable hl, hload, Session.after]⟩
  · rw [Session.move_load_of_loadable hl, h.core.loadProgram_of_too_long long, Session.after]
  · exact closedLoad h' h'' p (Session.not_loadable_of_load_or_step hm hkind) hload

end Sys2Proof.Machine
